-- ==== Sys2Proof/Word.lean ====
section
/-! DEFINITION. The word types of the LZWC block and their plainest arithmetic (spec/00_scope.md R10, spec/10_state.md R22). -/

namespace Sys2Proof

/-- A host-visible register or a command word: 32 bits (R22, R80). -/
abbrev Word := BitVec 32

/-- One buffer cell, one stream byte or one palette index: 8 bits (R6 INDEX_BITS, R60). -/
abbrev Byte := BitVec 8

end Sys2Proof
end

