-- ==== Sys2Proof/Syntax.lean ====
section
/-! DEFINITION. The nine commands of the LZWC block, one constructor per row of spec/opcode_table.json, in the table's order
(spec/30_encoding.md R82, R85). Operands are the unsigned integers of R84; which of them an encoding admits is
`wellFormed`'s business, which of them a command accepts is the command's own rule. -/

namespace Sys2Proof

inductive Instr where
  /-- `PK_OPEN` (R111). -/
  | pkOpen
  /-- `PK_ADD w, value` (R113). -/
  | pkAdd (w value : Nat)
  /-- `PK_FINISH prefix` (R116). -/
  | pkFinish (pre : Nat)
  /-- `UP_OPEN` (R131). -/
  | upOpen
  /-- `UP_READ w` (R133). -/
  | upRead (w : Nat)
  /-- `UP_CLOSE` (R135). -/
  | upClose
  /-- `ENC_RUN mcs` (R150). -/
  | encRun (mcs : Nat)
  /-- `DEC_RUN` (R180). -/
  | decRun
  /-- `SOFT_RESET` (R210), with its 24 ignored low bits, so that no bit of the word is dropped (assumption 18). -/
  | softReset (low : Nat)
deriving DecidableEq, Repr

end Sys2Proof
end

