-- ==== Sys2Proof/WellFormed.lean ====
section
/-! DEFINITION. Which commands an encoding exists for: every operand fits its field (spec/30_encoding.md R80, R82, R84). -/

namespace Sys2Proof

/-- An operand of the W field, bits [23:20]: 0 to 15. -/
def fitsW (w : Nat) : Bool := decide (w < 2 ^ 4)

/-- An operand of the whole IMM field, bits [15:0]: 0 to 65535. -/
def fitsImm (v : Nat) : Bool := decide (v < 2 ^ 16)

/-- The prefix operand of PK_FINISH, bits [7:0]. -/
def fitsPrefix (p : Nat) : Bool := decide (p < 2 ^ 8)

/-- The ignored bits [23:0] of SOFT_RESET. -/
def fitsLow (l : Nat) : Bool := decide (l < 2 ^ 24)

/-- Every operand fits its field. -/
def wellFormed : Instr → Bool
  | .pkOpen => true
  | .pkAdd w value => fitsW w && fitsImm value
  | .pkFinish pre => fitsPrefix pre
  | .upOpen => true
  | .upRead w => fitsW w
  | .upClose => true
  | .encRun mcs => fitsImm mcs
  | .decRun => true
  | .softReset low => fitsLow low

end Sys2Proof
end

