-- ==== Sys2Proof/Decode.lean ====
section
/-! DEFINITION. The command word (spec/30_encoding.md R80 to R85): the decoder, total on every 32-bit word and rejecting by
name, then the encoder, then the opcode table of R82 as data. A command is one whole 32-bit word, so no byte order is
visible (spec/20_memory.md R67). -/

namespace Sys2Proof

/-- Why a word is illegal (R83). -/
inductive DecodeError where
  /-- Its OPC is 0x00, 0x07, 0x0A to 0x0E, or 0x10 to 0xFF. -/
  | unassignedOpcode
  /-- Its OPC is listed in R82 and a "must be 0" field is not 0. -/
  | mustBeZeroFieldSet
deriving DecidableEq, Repr

/-- `c[hi:lo]` as an unsigned integer (R10, R81). -/
def bits (c : Word) (hi lo : Nat) : Nat := c.toNat / 2 ^ lo % 2 ^ (hi + 1 - lo)

/-- `OPC = c[31:24]` (R81). -/
def opcOf (c : Word) : Nat := bits c 31 24

/-- `W = c[23:20]` (R81). -/
def wOf (c : Word) : Nat := bits c 23 20

/-- `RSV = c[19:16]` (R80). -/
def rsvOf (c : Word) : Nat := bits c 19 16

/-- `IMM = c[15:0]` (R81). -/
def immOf (c : Word) : Nat := bits c 15 0

/-- The command, if the "must be" fields of its row hold (R82, R83). -/
def whenFields (holds : Bool) (i : Instr) : Except DecodeError Instr :=
  if holds then .ok i else .error .mustBeZeroFieldSet

/-- The opcode map of R82, told apart by OPC alone (R80). -/
def decode (c : Word) : Except DecodeError Instr :=
  match opcOf c with
  | 0x01 => whenFields (wOf c == 0 && rsvOf c == 0 && immOf c == 0) .pkOpen
  | 0x02 => whenFields (rsvOf c == 0) (.pkAdd (wOf c) (immOf c))
  | 0x03 => whenFields (wOf c == 0 && rsvOf c == 0 && bits c 15 8 == 0) (.pkFinish (bits c 7 0))
  | 0x04 => whenFields (wOf c == 0 && rsvOf c == 0 && immOf c == 0) .upOpen
  | 0x05 => whenFields (rsvOf c == 0 && immOf c == 0) (.upRead (wOf c))
  | 0x06 => whenFields (wOf c == 0 && rsvOf c == 0 && immOf c == 0) .upClose
  | 0x08 => whenFields (wOf c == 0 && rsvOf c == 0) (.encRun (immOf c))
  | 0x09 => whenFields (wOf c == 0 && rsvOf c == 0 && immOf c == 0) .decRun
  | 0x0F => .ok (.softReset (bits c 23 0))
  | _ => .error .unassignedOpcode

/-- The word `OPC<<24 | w<<20 | IMM` of R85; the fields do not overlap, so their bits add. -/
def commandWord (opc w imm : Nat) : Word := BitVec.ofNat 32 (opc * 2 ^ 24 + w * 2 ^ 20 + imm)

/-- The encoder: the word of a well-formed command (R82, R85). -/
def encode : Instr → Word
  | .pkOpen => commandWord 0x01 0 0
  | .pkAdd w value => commandWord 0x02 w value
  | .pkFinish pre => commandWord 0x03 0 pre
  | .upOpen => commandWord 0x04 0 0
  | .upRead w => commandWord 0x05 w 0
  | .upClose => commandWord 0x06 0 0
  | .encRun mcs => commandWord 0x08 0 mcs
  | .decRun => commandWord 0x09 0 0
  | .softReset low => commandWord 0x0F 0 low

/-- The operation code of a command (R82). -/
def opcodeOf : Instr → Nat
  | .pkOpen => 0x01
  | .pkAdd _ _ => 0x02
  | .pkFinish _ => 0x03
  | .upOpen => 0x04
  | .upRead _ => 0x05
  | .upClose => 0x06
  | .encRun _ => 0x08
  | .decRun => 0x09
  | .softReset _ => 0x0F

/-- One row of R82's opcode map: a word spells the command when its masked bits equal the pattern. -/
structure OpcodeRow where
  pattern : Word
  mask    : Word
deriving DecidableEq, Repr

/-- The `match` and `mask` columns of R82, in its order. -/
def opcodeTable : List OpcodeRow :=
  [⟨0x01000000, 0xFFFFFFFF⟩, ⟨0x02000000, 0xFF0F0000⟩, ⟨0x03000000, 0xFFFFFF00⟩,
   ⟨0x04000000, 0xFFFFFFFF⟩, ⟨0x05000000, 0xFF0FFFFF⟩, ⟨0x06000000, 0xFFFFFFFF⟩,
   ⟨0x08000000, 0xFFFF0000⟩, ⟨0x09000000, 0xFFFFFFFF⟩, ⟨0x0F000000, 0xFF000000⟩]

/-- The word matches the row. -/
def OpcodeRow.accepts (r : OpcodeRow) (c : Word) : Bool := c &&& r.mask == r.pattern

/-- The command word the low `nbits` bits of `w` spell, every bit above them 0. -/
def tableWord (nbits w : Nat) : Word := BitVec.ofNat 32 (w % 2 ^ nbits)

/-- What the decoder reads from a table row's word. A command has exactly 32 bits (R80), so more bits spell none. -/
def decodeTableWord (nbits w : Nat) : Option Instr :=
  if nbits ≤ 32 then (decode (tableWord nbits w)).toOption else none

end Sys2Proof
end

