-- ==== Sys2Proof/Config.lean ====
section
/-! DEFINITION. What is fixed for one LZWC block: the fixed limits of spec/00_scope.md R6, the four buffer spaces of
spec/20_memory.md R60, the shape of the OPEN parameters (R6, R77), and the FREE VALUES (constants without a body, about
which nothing can be proved). -/

namespace Sys2Proof

/-- The four buffers; each is its own address space (R60). -/
inductive Space where
  | idxIn
  | idxOut
  | byteIn
  | byteOut
deriving DecidableEq, Repr

namespace Config

/-- MAX_BITS (R6, R7): the largest code width. -/
abbrev maxBits : Nat := 12

/-- MCS_MIN (R6, R8). -/
abbrev mcsMin : Nat := 2

/-- MCS_MAX (R6, R8). -/
abbrev mcsMax : Nat := 8

/-- SUBBLOCK_MAX (R6, R9): the most payload bytes a sub-block holds. -/
abbrev subblockMax : Nat := 255

/-- W_MIN (R6). -/
abbrev wMin : Nat := 1

/-- W_MAX (R6). -/
abbrev wMax : Nat := 12

/-- The OPEN capacities IDX_IN_CAP, IDX_OUT_CAP, BYTE_IN_CAP, BYTE_OUT_CAP (R6): arguments of the model. They stand in
State as plain data no step changes, so that a statement about every state is a statement about every capacity
(assumption 2). -/
structure Capacities where
  idxIn   : Nat
  idxOut  : Nat
  byteIn  : Nat
  byteOut : Nat
deriving DecidableEq, Repr

/-- The range R6 gives each capacity: an integer in [1, 2^32-1]. -/
def Capacities.wf (c : Capacities) : Bool :=
  decide (1 ≤ c.idxIn ∧ c.idxIn < 2 ^ 32) && decide (1 ≤ c.idxOut ∧ c.idxOut < 2 ^ 32) &&
  decide (1 ≤ c.byteIn ∧ c.byteIn < 2 ^ 32) && decide (1 ≤ c.byteOut ∧ c.byteOut < 2 ^ 32)

/-- The number of cells of one buffer (R60). -/
def Capacities.size (c : Capacities) : Space → Nat
  | .idxIn => c.idxIn
  | .idxOut => c.idxOut
  | .byteIn => c.byteIn
  | .byteOut => c.byteOut

/-- OPEN parameter LZWC_BASE (R77): where the platform places the register file. No rule depends on it, and nothing here
reads it but `registerAddress`. -/
opaque lzwcBase : Nat

/-- The place of a register in the host's address map (R77). -/
def registerAddress (off : BitVec 8) : Nat := lzwcBase + off.toNat

/-- FREE VALUE (R76, U16, assumption 3): what a read of a cell that nothing has written since hardware reset returns, for
the draw number, the space and the cell. -/
opaque freeCell : Nat → Space → Nat → Byte

/-- FREE VALUE (assumption 4): what a 32-bit register holds for a number that does not fit 32 bits, for the draw number
and the number. The spec states no value there. -/
opaque freeWide : Nat → Nat → Word

/-- FREE VALUE (R47, R261, U17, assumption 6): `UP.pos` after a reset event. -/
opaque freeUpPos : Nat → Word

/-- FREE VALUE (R47, U17): `UP.len` after a reset event. -/
opaque freeUpLen : Nat → Word

/-- FREE VALUE (R47, U17): `UP.rem` after a reset event. -/
opaque freeUpRem : Nat → Byte

/-- FREE VALUE (R47, U17): `UP.cur` after a reset event. -/
opaque freeUpCur : Nat → Byte

/-- FREE VALUE (R47, U17): `UP.boff` after a reset event. -/
opaque freeUpBoff : Nat → BitVec 4

/-- FREE VALUE (R47, U17): `UP.curpos` after a reset event. -/
opaque freeUpCurpos : Nat → Word

end Config

end Sys2Proof
end

