-- ==== Sys2Proof/Machine/State.lean ====
section
/-! DEFINITION. The state of the LZWC block (spec/10_state.md), as plain data, and its value after reset. What is computed
from it (STATUS, PK_NBITS, the register map) stands in Machine/Flags.lean and Machine/HostAccess.lean. -/

namespace Sys2Proof.Machine

/-- One buffer's cells that were written since hardware reset, at strictly rising cell numbers. A cell that is not listed
holds no value: a read of it draws a free value (R76). -/
abbrev Memory := List Host.Cell

/-- The error codes a fault latches (spec/60_exceptions.md R231), in the table's order. 0x00, NONE, is `none` where one is
stored. -/
inductive ErrCode where
  | configInvalidCodeSize
  | configEmptyInput
  | configBadIndex
  | configBadWidth
  | configBadLength
  | malformedBadCodeSize
  | malformedNoInitialClear
  | malformedPrematureEnd
  | malformedTrailingData
  | malformedNoTerminator
  | truncatedStream
  | dictionaryDesync
  | illegalCommand
  | unitBusy
  | sequenceError
  | outputOverflow
deriving DecidableEq, Repr

/-- `Fault(CODE, off, val)` of R14: what a command raises. The two numbers are exact here (R10); the latch makes them
words. -/
structure BlockFault where
  code : ErrCode
  off  : Nat
  val  : Nat
deriving DecidableEq, Repr

/-- The bit cursor of R41: the UP record less its `bound` bit. The host-visible unpacker holds one, DEC_RUN a private one
(R181). Counters are exact (R10); Safety.lean states their bounds. -/
structure Cursor where
  /-- BYTE_IN index of the next byte not yet consumed. -/
  pos    : Nat
  /-- The latched IN_LEN. -/
  len    : Nat
  /-- Payload bytes of the current sub-block not yet consumed. -/
  rem    : Nat
  /-- The current payload byte. -/
  cur    : Byte
  /-- Bits of `cur` consumed, 0 to 8. -/
  boff   : Nat
  /-- BYTE_IN index of `cur`. -/
  curpos : Nat
deriving DecidableEq, Repr

/-- What the outside world does to the block: the host's actions (R70) and the platform's reset input (R260). A register
offset is one of the 256 byte offsets of the register file (R77). -/
inductive Input where
  /-- Write a register; at offset 0x00 this issues a command (R23). -/
  | writeReg (off : BitVec 8) (v : Word)
  /-- Read a register (R212). -/
  | readReg (off : BitVec 8)
  /-- Write one buffer cell (R60). -/
  | writeCell (sp : Space) (a : Nat) (v : Byte)
  /-- Read one buffer cell (R60). -/
  | readCell (sp : Space) (a : Nat)
  /-- The platform's reset input (R260). -/
  | hardwareReset
deriving DecidableEq, Repr

structure State where
  /-- STATUS.ERR (R24). -/
  err       : Bool
  /-- STATUS.BUSY (R24): set while a command runs, so false in every state between steps. -/
  busy      : Bool
  /-- STATUS.WARN_CLAMP (R24, R162). -/
  warnClamp : Bool
  /-- ERRCODE (R25); `none` is 0x00. -/
  errcode   : Option ErrCode
  /-- ERR_OFF (R26). -/
  errOff    : Word
  /-- ERR_VAL (R27). -/
  errVal    : Word
  /-- RESULT (R28). -/
  result    : Word
  /-- ENC_LEN (R29). -/
  encLen    : Word
  /-- IN_LEN (R30). -/
  inLen     : Word
  /-- IN_POS (R31). -/
  inPos     : Word
  /-- OUT_LEN (R32). -/
  outLen    : Word
  /-- IDX_OUT_LEN (R33). -/
  idxOutLen : Word
  /-- DEC_MCS bits [7:0] (R34). -/
  decMcs    : Byte
  /-- `PK.bits` (R40), the first appended bit first; PK_NBITS and STATUS.PK_PENDING are views of it. -/
  pkBits    : List Bool
  /-- `UP.bound` (R41); STATUS.UP_BOUND is a view of it. -/
  upBound   : Bool
  /-- The other UP fields (R41). -/
  up        : Cursor
  /-- IDX_IN (R61). -/
  idxIn     : Memory
  /-- IDX_OUT (R62). -/
  idxOut    : Memory
  /-- BYTE_IN (R63). -/
  byteIn    : Memory
  /-- BYTE_OUT (R64). -/
  byteOut   : Memory
  /-- The OPEN capacities (R6): fixed for one block. -/
  caps      : Config.Capacities
  /-- THE MODEL'S OWN: what the outside world does next, the earliest first (R70, assumption 1). -/
  inputs    : List Input
  /-- THE MODEL'S OWN: what the host's last read returned (assumption 11). -/
  readData  : Word
  /-- THE MODEL'S OWN: the number of the current draw of free values (assumption 3). -/
  draw      : Nat
deriving DecidableEq, Repr

/-- Why the machine stops. -/
inductive Fault where
  /-- Raised by a host read or write of a cell at or above the buffer's capacity: R60 gives the buffer no such cell. Safe:
  the model stops where the platform would do something the spec does not describe. -/
  | noSuchCell
deriving DecidableEq, Repr

/-- Why the model has no such move. -/
inductive Refusal where
  /-- Raised by exec's arm of a command that has no meaning yet, with its mnemonic. Safe. -/
  | notModelled (mnemonic : String)
  /-- Raised by a host write of a BYTE_IN cell while the unpacker is bound: the host has no such move (R266, U21). Safe. -/
  | byteInWriteWhileBound
  /-- Raised by a host write of an IDX_OUT or BYTE_OUT cell: the host can only read them (R60, U24). Safe. -/
  | outputBufferWrite
  /-- Raised by a host write of CMD, a register or a cell while STATUS.BUSY = 1: the host has no such move (R215, U22).
  Safe; no state between steps has BUSY = 1 (R265). -/
  | hostWriteWhileBusy
deriving DecidableEq, Repr

/-- The capacities of the reset state: 4096 each, as spec/95_test_vectors.md takes them (DESIGN CHOICE, assumption 2). -/
def State.resetCaps : Config.Capacities := ⟨4096, 4096, 4096, 4096⟩

/-- The block right after hardware reset (R47, R261, R263), with nothing for it to do yet. The cursor fields, which R47
leaves unspecified, are 0 here (DESIGN CHOICE, assumption 5); the capacities, `readData` and `draw` are the model's own
(assumptions 2, 3, 11). -/
def State.reset : State where
  err := false
  busy := false
  warnClamp := false
  errcode := none
  errOff := 0
  errVal := 0
  result := 0
  encLen := 0
  inLen := 0
  inPos := 0
  outLen := 0
  idxOutLen := 0
  decMcs := 0
  pkBits := []
  upBound := false
  up := ⟨0, 0, 0, 0, 0, 0⟩
  idxIn := []
  idxOut := []
  byteIn := []
  byteOut := []
  caps := State.resetCaps
  inputs := []
  readData := 0
  draw := 0

end Sys2Proof.Machine
end

