-- ==== Sys2Proof/Machine/Ops.lean ====
section
/-! DEFINITION. The shared operations: buffer memory, the accessors of State, the error latch (the block's one way of
taking an exception, spec/60_exceptions.md R236), the frame every command runs in, and the reset of registers and units. -/

namespace Sys2Proof.Machine

/-! ## Memory -/

/-- The canonical form: strictly rising cell numbers. -/
abbrev Memory.wf (m : Memory) : Prop := m.Pairwise (fun x y => x.1 < y.1)

/-- The byte last written to cell `a`, if one was. -/
def Memory.lookup : Memory → Nat → Option Byte
  | [], _ => none
  | (b, v) :: rest, a => if a = b then some v else Memory.lookup rest a

/-- `MemWrite` on one buffer (R13): one cell, kept in rising order. -/
def Memory.write : Memory → Nat → Byte → Memory
  | [], a, v => [(a, v)]
  | (b, w) :: rest, a, v =>
    if a < b then (a, v) :: (b, w) :: rest
    else if a = b then (a, v) :: rest
    else (b, w) :: Memory.write rest a v

/-- `for i in 0 .. len-1: MemWrite(base+i, 1, bytes[i])` (R62, R64). -/
def Memory.writeSeq : Memory → Nat → List Byte → Memory
  | m, _, [] => m
  | m, base, v :: rest => Memory.writeSeq (Memory.write m base v) (base + 1) rest

/-! ## Accessors and updates of State -/

/-- The contents of one buffer. -/
def State.buf (s : State) : Space → Memory
  | .idxIn => s.idxIn
  | .idxOut => s.idxOut
  | .byteIn => s.byteIn
  | .byteOut => s.byteOut

/-- Replace the contents of one buffer. -/
def State.setBuf (s : State) (sp : Space) (m : Memory) : State :=
  match sp with
  | .idxIn => { s with idxIn := m }
  | .idxOut => { s with idxOut := m }
  | .byteIn => { s with byteIn := m }
  | .byteOut => { s with byteOut := m }

/-- `MemRead(SPACE:a, 1)` (R13): the last value written, or this draw's free value for a cell never written (R71, R76). -/
def State.cell (s : State) (sp : Space) (a : Nat) : Byte :=
  (Memory.lookup (s.buf sp) a).getD (Config.freeCell s.draw sp a)

/-- STATUS.BUSY (R24). -/
def State.setBusy (s : State) (b : Bool) : State := { s with busy := b }

/-- Take the earliest input, leaving `rest`; the next draw of free values begins (R76). -/
def State.takeInput (s : State) (rest : List Input) : State := { s with inputs := rest, draw := s.draw + 1 }

/-- A number as a 32-bit register holds it; the spec states no value for one that does not fit (assumption 4). -/
def regWord (draw n : Nat) : Word := if n < 2 ^ 32 then BitVec.ofNat 32 n else Config.freeWide draw n

/-! ## Faults -/

/-- TAKING AN EXCEPTION (R236 step 2): the error latch. The first fault wins. -/
def raiseFault (f : BlockFault) (s : State) : State :=
  if s.err then s
  else { s with err := true, errcode := some f.code, errOff := regWord s.draw f.off, errVal := regWord s.draw f.val }

/-- The frame of every command but SOFT_RESET: dropped while an error is latched (R214); else all its effects, or, when a
check fails, none of them and the latch (R236, R69). -/
def command (s : State) (body : State → Except BlockFault State) : Host.Outcome State Fault Refusal :=
  if s.err then .next s
  else
    match body s with
    | .ok t => .next t
    | .error f => .next (raiseFault f s)

/-! ## Reset -/

/-- The cursor after a reset event: every field a free value (R47, R261, U17). -/
def freeCursor (draw : Nat) : Cursor where
  pos := (Config.freeUpPos draw).toNat
  len := (Config.freeUpLen draw).toNat
  rem := (Config.freeUpRem draw).toNat
  cur := Config.freeUpCur draw
  boff := (Config.freeUpBoff draw).toNat
  curpos := (Config.freeUpCurpos draw).toNat

/-- What both reset events do (R47, R261): every register and unit-state field; no buffer. It is also the block's only
return from a latched error (R240). -/
def resetRegisters (s : State) : State :=
  { s with
    err := false, busy := false, warnClamp := false
    errcode := none, errOff := 0, errVal := 0, result := 0
    encLen := 0, inLen := 0, inPos := 0
    outLen := 0, idxOutLen := 0, decMcs := 0
    pkBits := [], upBound := false, up := freeCursor s.draw }

/-- The platform's reset input (R260, R262): as above, and every buffer cell unspecified. -/
def hardwareReset (s : State) : State :=
  { resetRegisters s with idxIn := [], idxOut := [], byteIn := [], byteOut := [] }

end Sys2Proof.Machine
end

