-- ==== Sys2Proof/Machine/Control.lean ====
section
/-! DEFINITION. SOFT_RESET (spec/44_control.md R210). -/

namespace Sys2Proof.Machine

/-- SOFT_RESET (R210): it runs whether an error is latched or not, ignores its low bits, and changes no buffer. -/
def execSoftReset (_low : Nat) (s : State) : Host.Outcome State Fault Refusal :=
  .next (resetRegisters s)

end Sys2Proof.Machine
end

