-- ==== Sys2Proof/Machine/Flags.lean ====
section
/-! DEFINITION. The STATUS register's bits (spec/10_state.md R24), the numbers of the error codes (spec/60_exceptions.md
R231), and the clamp warning (spec/42_lzw_encoder.md R162). -/

namespace Sys2Proof.Machine

/-- STATUS.PK_PENDING: a live view of the packer (R24). -/
def pkPending (s : State) : Bool := !s.pkBits.isEmpty

/-- PK_NBITS: `len(PK.bits)` (R35). -/
def pkNbits (s : State) : Word := regWord s.draw s.pkBits.length

/-- STATUS (R24): ERR, BUSY, PK_PENDING, UP_BOUND and WARN_CLAMP at bits 0 to 4; the others read 0. -/
def statusWord (s : State) : Word :=
  BitVec.ofNat 32
    (s.err.toNat + 2 * s.busy.toNat + 4 * (pkPending s).toNat + 8 * s.upBound.toNat + 16 * s.warnClamp.toNat)

/-- The ERRCODE number of a code (R231); bits [7:4] name the class (R230). -/
def ErrCode.number : ErrCode → Nat
  | .configInvalidCodeSize => 0x01
  | .configEmptyInput => 0x02
  | .configBadIndex => 0x03
  | .configBadWidth => 0x04
  | .configBadLength => 0x05
  | .malformedBadCodeSize => 0x10
  | .malformedNoInitialClear => 0x11
  | .malformedPrematureEnd => 0x12
  | .malformedTrailingData => 0x13
  | .malformedNoTerminator => 0x14
  | .truncatedStream => 0x20
  | .dictionaryDesync => 0x30
  | .illegalCommand => 0x40
  | .unitBusy => 0x41
  | .sequenceError => 0x42
  | .outputOverflow => 0x43

/-- ERRCODE as the host reads it (R25): 0x00 when no fault is latched. -/
def errcodeWord (s : State) : Word :=
  match s.errcode with
  | none => 0
  | some c => BitVec.ofNat 32 c.number

/-- STATUS.WARN_CLAMP after a successful ENC_RUN (R162). -/
def clampWarning (mcsIn : Nat) : Bool := decide (mcsIn < Config.mcsMin)

end Sys2Proof.Machine
end

