-- ==== Sys2Proof/Machine/Operands.lean ====
section
/-! DEFINITION. Operand forms (spec/30_encoding.md R84): the width operand and its legality, the low bits of a value, the
requested code size and its clamp. -/

namespace Sys2Proof.Machine

/-- The widths PK_ADD and UP_READ accept: 1 to 12 (R6, R113, R133). -/
def legalWidth (w : Nat) : Bool := decide (Config.wMin ≤ w ∧ w ≤ Config.wMax)

/-- The fault of any other width (R231, D6). -/
def badWidth (w : Nat) : BlockFault := ⟨.configBadWidth, 0, w⟩

/-- `[v[0], v[1], ..., v[w-1]]` (R112): the low `w` bits of a value, the low-order bit first; higher bits are ignored. -/
def lowBits (v w : Nat) : List Bool := (List.range w).map v.testBit

/-- `m = max(mcs_in, 2)` (R151). -/
def clampMcs (mcsIn : Nat) : Nat := max mcsIn Config.mcsMin

end Sys2Proof.Machine
end

