-- ==== Sys2Proof/Machine/Packer.lean ====
section
/-! DEFINITION. The bit packer (spec/40_bit_packer.md): payload, sub-blocks and frame; PK_OPEN, PK_ADD, PK_FINISH. -/

namespace Sys2Proof.Machine

/-! ## From bits to bytes -/

/-- The number whose bits are the list's, the low-order bit first (R66). -/
def bitsValue : List Bool → Nat
  | [] => 0
  | b :: rest => b.toNat + 2 * bitsValue rest

/-- `ceil(n / d)`. -/
def ceilDiv (n d : Nat) : Nat := (n + d - 1) / d

/-- Payload byte `q`: stream bit `8q+i` at bit `i`, 0 past the end of the stream (R90, R114). -/
def payloadByte (bs : List Bool) (q : Nat) : Byte := BitVec.ofNat 8 (bitsValue ((bs.drop (8 * q)).take 8))

/-- `payload(bits)` (R114). -/
def payload (bs : List Bool) : List Byte := (List.range (ceilDiv bs.length 8)).map (payloadByte bs)

/-- Sub-block `k`: its length byte and its bytes, 255 but for the last (R92). -/
def subBlock (pl : List Byte) (k : Nat) : List Byte :=
  let chunk := (pl.drop (Config.subblockMax * k)).take Config.subblockMax
  BitVec.ofNat 8 chunk.length :: chunk

/-- The sub-blocks of a payload, in order (R92). -/
def subBlocks (pl : List Byte) : List Byte :=
  (List.range (ceilDiv pl.length Config.subblockMax)).flatMap (subBlock pl)

/-- `frame(prefix, bits)`: the completed byte buffer (R91, R115). -/
def frame (pre : Byte) (bs : List Bool) : List Byte := pre :: subBlocks (payload bs) ++ [0]

/-- `flen(n) = 1 + P + ceil(P/255) + 1`, `P = ceil(n/8)` (R115). -/
def flen (n : Nat) : Nat := 1 + ceilDiv n 8 + ceilDiv (ceilDiv n 8) Config.subblockMax + 1

/-! ## The commands -/

/-- PK_OPEN (R111). -/
def execPkOpen (s : State) : Host.Outcome State Fault Refusal :=
  command s fun s => .ok { s with pkBits := [] }

/-- PK_ADD's checks and effect, in order (R113, R118). -/
def pkAddBody (w value : Nat) (s : State) : Except BlockFault State :=
  if !legalWidth w then .error (badWidth w)
  else if flen (s.pkBits.length + w) > s.caps.byteOut then
    .error ⟨.outputOverflow, 0, flen (s.pkBits.length + w)⟩
  else .ok { s with pkBits := s.pkBits ++ lowBits value w }

/-- PK_ADD (R113). -/
def execPkAdd (w value : Nat) (s : State) : Host.Outcome State Fault Refusal :=
  command s (pkAddBody w value)

/-- Write a completed byte stream to BYTE_OUT from cell 0, and its length to OUT_LEN and RESULT (R64, R116, R150). -/
def emitBytes (bytes : List Byte) (s : State) : State :=
  { s with
    byteOut := Memory.writeSeq s.byteOut 0 bytes
    outLen := BitVec.ofNat 32 bytes.length
    result := BitVec.ofNat 32 bytes.length }

/-- PK_FINISH's check and effect (R116). -/
def pkFinishBody (pre : Nat) (s : State) : Except BlockFault State :=
  let bytes := frame (BitVec.ofNat 8 pre) s.pkBits
  if bytes.length > s.caps.byteOut then .error ⟨.outputOverflow, 0, bytes.length⟩
  else .ok { emitBytes bytes s with pkBits := [] }

/-- PK_FINISH (R116). -/
def execPkFinish (pre : Nat) (s : State) : Host.Outcome State Fault Refusal :=
  command s (pkFinishBody pre)

end Sys2Proof.Machine
end

