-- ==== Sys2Proof/Machine/Encoder.lean ====
section
/-! DEFINITION. The LZW encoder (spec/42_lzw_encoder.md): the working state ENC of spec/10_state.md R42, the steps R152 to
R159, `enc_codes` (R163) and ENC_RUN. ENC exists only inside one ENC_RUN, so it is no part of State (R47). -/

namespace Sys2Proof.Machine

/-- ENC (R42), with the codes emitted so far. `k` is how far the fold over the input has come. -/
structure Enc where
  m       : Nat
  cb      : Nat
  nf      : Nat
  /-- `D`: the learned entries, key (prefix code, index) (R44). -/
  dict    : List ((Nat × Byte) × Nat)
  /-- The code of the running sequence; `none` is NONE. -/
  buf     : Option Nat
  /-- `E`: the emitted (code, width) pairs in order. -/
  emitted : List (Nat × Nat)
deriving DecidableEq, Repr

/-- CLEAR, `2^m` (R87). -/
def clearCode (m : Nat) : Nat := 2 ^ m

/-- EOI, `2^m + 1` (R87). -/
def eoiCode (m : Nat) : Nat := 2 ^ m + 1

/-- The first free code, and the decoder's first size, `2^m + 2` (R153, R183). -/
def firstFree (m : Nat) : Nat := 2 ^ m + 2

/-- `emit(c, w)` (R15). -/
def Enc.emit (e : Enc) (c w : Nat) : Enc := { e with emitted := e.emitted ++ [(c, w)] }

/-- The initial dictionary and width (R152, R153, R157). -/
def Enc.clear (e : Enc) : Enc := { e with cb := e.m + 1, nf := firstFree e.m, dict := [] }

/-- Steps 1 and 2 (R152, R153). -/
def Enc.start (m : Nat) : Enc := ⟨m, m + 1, firstFree m, [], none, [(clearCode m, m + 1)]⟩

/-- `overflow_clear()` (R157). -/
def Enc.overflowClear (e : Enc) : Enc := (e.emit (clearCode e.m) Config.maxBits).clear

/-- `width_update(a)` (R156). -/
def Enc.widthUpdate (e : Enc) (a : Nat) : Enc :=
  if a = 2 ^ e.cb then
    if e.cb + 1 > Config.maxBits then { e with cb := e.cb + 1 }.overflowClear else { e with cb := e.cb + 1 }
  else e

/-- Step 3, miss: the sequence `b` is emitted, `b ++ [x]` gets the next free code, and `x` restarts the buffer (R155). -/
def Enc.miss (e : Enc) (b : Nat) (x : Byte) : Enc :=
  let e1 := e.emit b e.cb
  let e2 := { e1 with dict := ((b, x), e.nf) :: e1.dict, nf := e.nf + 1 }
  { e2.widthUpdate e.nf with buf := some x.toNat }

/-- Step 3: one input index, hit or miss (R154, R155). -/
def Enc.consume (e : Enc) (x : Byte) : Enc :=
  match e.buf with
  | none => { e with buf := some x.toNat }
  | some b =>
    match e.dict.lookup (b, x) with
    | some c => { e with buf := some c }
    | none => e.miss b x

/-- The final flush: a code is assigned, nothing is stored (R158). -/
def Enc.flush (e : Enc) : Enc :=
  match e.buf with
  | none => e
  | some b => { e.emit b e.cb with nf := e.nf + 1 }.widthUpdate e.nf

/-- Step 5's end-of-information code (R159). -/
def Enc.finish (e : Enc) : Enc := e.emit (eoiCode e.m) e.cb

/-- `enc_codes(xs, m)` (R163). -/
def encCodes (xs : List Byte) (m : Nat) : List (Nat × Nat) :=
  (xs.foldl Enc.consume (Enc.start m)).flush.finish.emitted

/-- Every code appended in order, each at its width (R15, R112, R150). -/
def codeBits (codes : List (Nat × Nat)) : List Bool := codes.flatMap fun cw => lowBits cw.1 cw.2

/-- The finished image-data stream of an input (R159). -/
def encStream (xs : List Byte) (m : Nat) : List Byte := frame (BitVec.ofNat 8 m) (codeBits (encCodes xs m))

/-- `xs = [MemRead(IDX_IN:k, 1) for k in 0 .. ENC_LEN-1]` (R61, R150). -/
def encInput (s : State) : List Byte := (List.range s.encLen.toNat).map (s.cell .idxIn)

/-- The first index at or above `2^m`, with its place, counting from `k` (R150, D12). -/
def firstBadIndex (m : Nat) : Nat → List Byte → Option (Nat × Byte)
  | _, [] => none
  | k, x :: rest => if x.toNat ≥ 2 ^ m then some (k, x) else firstBadIndex m (k + 1) rest

/-- ENC_RUN's checks and effect, in order (R150, R160). -/
def encRunBody (mcsIn : Nat) (s : State) : Except BlockFault State :=
  if s.pkBits.length > 0 then .error ⟨.unitBusy, 0, s.pkBits.length⟩
  else if mcsIn > Config.mcsMax then .error ⟨.configInvalidCodeSize, 0, mcsIn⟩
  else if s.encLen = 0 then .error ⟨.configEmptyInput, 0, 0⟩
  else if s.encLen.toNat > s.caps.idxIn then .error ⟨.configBadLength, 0, s.encLen.toNat⟩
  else
    let m := clampMcs mcsIn
    let xs := encInput s
    match firstBadIndex m 0 xs with
    | some (k, x) => .error ⟨.configBadIndex, k, x.toNat⟩
    | none =>
      let out := encStream xs m
      if out.length > s.caps.byteOut then .error ⟨.outputOverflow, 0, out.length⟩
      else .ok { emitBytes out s with warnClamp := clampWarning mcsIn }

/-- ENC_RUN (R150). -/
def execEncRun (mcsIn : Nat) (s : State) : Host.Outcome State Fault Refusal :=
  command s (encRunBody mcsIn)

end Sys2Proof.Machine
end

