-- ==== Sys2Proof/Machine/Unpacker.lean ====
section
/-! DEFINITION. The bit unpacker (spec/41_bit_unpacker.md): the cursor's next bit, a read, the end-of-stream check; UP_OPEN,
UP_READ, UP_CLOSE. `rd a` is `MemRead(BYTE_IN:a, 1)`. Each function works on its own copy of the cursor, which a fault
drops (R130). -/

namespace Sys2Proof.Machine

/-! ## The cursor -/

/-- A cursor that has read nothing yet, at a sub-block length byte (R131, R181). -/
def Cursor.openAt (pos len : Nat) : Cursor := ⟨pos, len, 0, 0, 8, pos⟩

/-- Consume the length byte of the next sub-block (R132): lazily, only when a payload byte is needed (D18). -/
def nextBlock (rd : Nat → Byte) (u : Cursor) : Except BlockFault Cursor :=
  if u.rem ≠ 0 then .ok u
  else if u.pos ≥ u.len then .error ⟨.truncatedStream, u.pos, 0⟩
  else if rd u.pos = 0 then .error ⟨.malformedPrematureEnd, u.pos, 0⟩
  else .ok { u with pos := u.pos + 1, rem := (rd u.pos).toNat }

/-- Consume the next payload byte (R132). -/
def nextPayload (rd : Nat → Byte) (u : Cursor) : Except BlockFault Cursor :=
  if u.pos ≥ u.len then .error ⟨.truncatedStream, u.pos, 0⟩
  else .ok { u with cur := rd u.pos, curpos := u.pos, pos := u.pos + 1, rem := u.rem - 1, boff := 0 }

/-- The cursor with an unread bit in `cur` (R132). -/
def fetchByte (rd : Nat → Byte) (u : Cursor) : Except BlockFault Cursor :=
  if u.boff ≠ 8 then .ok u
  else
    match nextBlock rd u with
    | .error f => .error f
    | .ok u1 => nextPayload rd u1

/-- `next_bit(U)` (R132). -/
def nextBit (rd : Nat → Byte) (u : Cursor) : Except BlockFault (Bool × Cursor) :=
  match fetchByte rd u with
  | .error f => .error f
  | .ok u1 => .ok (u1.cur.getLsbD u1.boff, { u1 with boff := u1.boff + 1 })

/-- The value part of `read(U, w)` (R134): `w` bits, low-order first. -/
def readValue (rd : Nat → Byte) : Nat → Cursor → Except BlockFault (Nat × Cursor)
  | 0, u => .ok (0, u)
  | w + 1, u =>
    match nextBit rd u with
    | .error f => .error f
    | .ok (b, u1) =>
      match readValue rd w u1 with
      | .error f => .error f
      | .ok (r, u2) => .ok (b.toNat + 2 * r, u2)

/-- What one `read(U, w)` gives: the value, the BYTE_IN index of its first bit, and the moved cursor (R134). -/
structure CodeRead where
  value  : Nat
  start  : Nat
  cursor : Cursor
deriving DecidableEq, Repr

/-- `read(U, w)` (R134). No command reads 0 bits; `start` would then be the current byte's index. -/
def readCode (rd : Nat → Byte) : Nat → Cursor → Except BlockFault CodeRead
  | 0, u => .ok ⟨0, u.curpos, u⟩
  | w + 1, u =>
    match nextBit rd u with
    | .error f => .error f
    | .ok (b, u1) =>
      match readValue rd w u1 with
      | .error f => .error f
      | .ok (r, u2) => .ok ⟨b.toNat + 2 * r, u1.curpos, u2⟩

/-- The end-of-stream check of UP_CLOSE and of the decoder's EOI (R135, R186): unread bits of the current byte are dropped;
the answer is the index just past the terminator. -/
def closeStream (rd : Nat → Byte) (u : Cursor) : Except BlockFault Nat :=
  if u.rem > 0 then .error ⟨.malformedTrailingData, u.pos, u.rem⟩
  else if u.pos ≥ u.len then .error ⟨.malformedNoTerminator, u.pos, 0⟩
  else if rd u.pos ≠ 0 then .error ⟨.malformedNoTerminator, u.pos, (rd u.pos).toNat⟩
  else .ok (u.pos + 1)

/-! ## The commands -/

/-- UP_OPEN's check and effect (R131): it latches IN_POS and IN_LEN and reads no byte. -/
def upOpenBody (s : State) : Except BlockFault State :=
  if s.inLen.toNat > s.caps.byteIn then .error ⟨.configBadLength, 0, s.inLen.toNat⟩
  else .ok { s with upBound := true, up := Cursor.openAt s.inPos.toNat s.inLen.toNat }

/-- UP_OPEN (R131). -/
def execUpOpen (s : State) : Host.Outcome State Fault Refusal :=
  command s upOpenBody

/-- UP_READ's checks and effect, in order (R133). -/
def upReadBody (w : Nat) (s : State) : Except BlockFault State :=
  if !s.upBound then .error ⟨.sequenceError, 0, 0x05⟩
  else if !legalWidth w then .error (badWidth w)
  else
    match readCode (s.cell .byteIn) w s.up with
    | .error f => .error f
    | .ok r => .ok { s with up := r.cursor, result := BitVec.ofNat 32 r.value }

/-- UP_READ (R133). -/
def execUpRead (w : Nat) (s : State) : Host.Outcome State Fault Refusal :=
  command s (upReadBody w)

/-- UP_CLOSE's checks and effect, in order (R135). -/
def upCloseBody (s : State) : Except BlockFault State :=
  if !s.upBound then .error ⟨.sequenceError, 0, 0x06⟩
  else
    match closeStream (s.cell .byteIn) s.up with
    | .error f => .error f
    | .ok e => .ok { s with inPos := BitVec.ofNat 32 e, result := BitVec.ofNat 32 e, upBound := false }

/-- UP_CLOSE (R135). -/
def execUpClose (s : State) : Host.Outcome State Fault Refusal :=
  command s upCloseBody

end Sys2Proof.Machine
end

