-- ==== Sys2Proof/Machine/Decoder.lean ====
section
/-! DEFINITION. The LZW decoder (spec/43_lzw_decoder.md): the working state DEC of spec/10_state.md R43, the steps R181 to
R192, `dec` (R194) and DEC_RUN. DEC exists only inside one DEC_RUN, so it is no part of State (R47). -/

namespace Sys2Proof.Machine

/-- DEC (R43). -/
structure Dec where
  m     : Nat
  cb    : Nat
  size  : Nat
  /-- `T`: the learned entries, code to sequence (R45). -/
  table : List (Nat × List Byte)
  /-- The previous resolved sequence; `none` is NONE. -/
  prev  : Option (List Byte)
  out   : List Byte
  u     : Cursor
deriving DecidableEq, Repr

/-- What `dec` returns (R194). -/
structure Decoded where
  out : List Byte
  /-- The index just past the terminator. -/
  stop : Nat
  m   : Nat
deriving DecidableEq, Repr

/-- Dictionary initialisation (R183), at the initial CLEAR and at every later one (R185). -/
def Dec.clear (d : Dec) : Dec := { d with table := [], size := firstFree d.m, cb := d.m + 1, prev := none }

/-- The stored sequence of a code below the size that is neither CLEAR nor EOI (R45, R187). Every learned code below the
size has an entry, so the default is never taken (assumption 15). -/
def Dec.sequence (d : Dec) (c : Nat) : List Byte :=
  if c < clearCode d.m then [BitVec.ofNat 8 c] else (d.table.lookup c).getD []

/-- `T[size] <- s; size <- size + 1` (R187, R188). -/
def Dec.learn (d : Dec) (s : List Byte) : Dec := { d with table := (d.size, s) :: d.table, size := d.size + 1 }

/-- The sequence a data code stands for, and the dictionary after it (R187, R188, R189). `s.take 1` is `[s[0]]`: every
stored sequence has a first index. -/
def Dec.resolve (d : Dec) (c st : Nat) : Except BlockFault (List Byte × Dec) :=
  if c < d.size then
    match d.prev with
    | none => .ok (d.sequence c, d)
    | some p => .ok (d.sequence c, d.learn (p ++ (d.sequence c).take 1))
  else
    match d.prev with
    | some p => if c = d.size then .ok (p ++ p.take 1, d.learn (p ++ p.take 1)) else .error ⟨.dictionaryDesync, st, c⟩
    | none => .error ⟨.dictionaryDesync, st, c⟩

/-- Width growth (R190): it stops at 12 (C7). -/
def Dec.widthUpdate (d : Dec) : Dec :=
  if d.size = 2 ^ d.cb ∧ d.cb < Config.maxBits then { d with cb := d.cb + 1 } else d

/-- Append a sequence to the output (R192). -/
def Dec.append (d : Dec) (s : List Byte) : Dec := { d with out := d.out ++ s, prev := some s }

/-- The largest dictionary, `2^12` entries (R191). -/
def fullSize : Nat := 2 ^ Config.maxBits

/-- A data code (R184 items 3 to 6, then R192 and R190). -/
def Dec.dataCode (outCap : Nat) (d : Dec) (c st : Nat) : Except BlockFault Dec :=
  if d.size = fullSize then .error ⟨.dictionaryDesync, st, c⟩
  else
    match d.resolve c st with
    | .error f => .error f
    | .ok (s, d1) =>
      if d.out.length + s.length > outCap then .error ⟨.outputOverflow, st, d.out.length + s.length⟩
      else .ok (d1.append s).widthUpdate

/-- The code loop (R184), at most `fuel` passes. R196 bounds the passes; the fuel `decStream` gives is more than that, so
the answer for no fuel is never taken (assumption 14). -/
def decLoop (rd : Nat → Byte) (outCap : Nat) : Nat → Dec → Except BlockFault Decoded
  | 0, d => .error ⟨.truncatedStream, d.u.pos, 0⟩
  | fuel + 1, d =>
    match readCode rd d.cb d.u with
    | .error f => .error f
    | .ok r =>
      let d1 := { d with u := r.cursor }
      if r.value = clearCode d.m then decLoop rd outCap fuel d1.clear
      else if r.value = eoiCode d.m then
        match closeStream rd d1.u with
        | .error f => .error f
        | .ok e => .ok ⟨d1.out, e, d1.m⟩
      else
        match d1.dataCode outCap r.value r.start with
        | .error f => .error f
        | .ok d2 => decLoop rd outCap fuel d2

/-- More passes than a stream of the cells `[p, n)` has bits (R196). -/
def decFuel (p n : Nat) : Nat := 8 * (n - p) + 1

/-- `dec(p, n)` (R194) over BYTE_IN as `rd` reads it: the code-size byte (R181), the initial CLEAR (R182), the loop. -/
def decStream (rd : Nat → Byte) (outCap p n : Nat) : Except BlockFault Decoded :=
  if p ≥ n then .error ⟨.truncatedStream, p, 0⟩
  else
    let m := (rd p).toNat
    if m < Config.mcsMin ∨ m > Config.mcsMax then .error ⟨.malformedBadCodeSize, p, m⟩
    else
      match readCode rd (m + 1) (Cursor.openAt (p + 1) n) with
      | .error f => .error f
      | .ok r =>
        if r.value ≠ clearCode m then .error ⟨.malformedNoInitialClear, r.start, r.value⟩
        else decLoop rd outCap (decFuel p n) ⟨m, m + 1, firstFree m, [], none, [], r.cursor⟩

/-- DEC_RUN's checks and effect, in order (R180). -/
def decRunBody (s : State) : Except BlockFault State :=
  if s.upBound then .error ⟨.unitBusy, 0, s.up.pos⟩
  else if s.inLen.toNat > s.caps.byteIn then .error ⟨.configBadLength, 0, s.inLen.toNat⟩
  else
    match decStream (s.cell .byteIn) s.caps.idxOut s.inPos.toNat s.inLen.toNat with
    | .error f => .error f
    | .ok d =>
      .ok { s with
        idxOut := Memory.writeSeq s.idxOut 0 d.out
        idxOutLen := BitVec.ofNat 32 d.out.length
        result := BitVec.ofNat 32 d.out.length
        decMcs := BitVec.ofNat 8 d.m
        inPos := BitVec.ofNat 32 d.stop }

/-- DEC_RUN (R180). -/
def execDecRun (s : State) : Host.Outcome State Fault Refusal :=
  command s decRunBody

end Sys2Proof.Machine
end

