-- ==== Sys2Proof/Machine/Dispatch.lean ====
section
/-! DEFINITION. One arm per command of spec/opcode_table.json, each one call of its meaning. -/

namespace Sys2Proof.Machine

def exec (i : Instr) (s : State) : Host.Outcome State Fault Refusal :=
  match i with
  | .pkOpen => Sys2Proof.Machine.execPkOpen s
  | .pkAdd w value => Sys2Proof.Machine.execPkAdd w value s
  | .pkFinish pre => Sys2Proof.Machine.execPkFinish pre s
  | .upOpen => Sys2Proof.Machine.execUpOpen s
  | .upRead w => Sys2Proof.Machine.execUpRead w s
  | .upClose => Sys2Proof.Machine.execUpClose s
  | .encRun mcs => Sys2Proof.Machine.execEncRun mcs s
  | .decRun => Sys2Proof.Machine.execDecRun s
  | .softReset low => Sys2Proof.Machine.execSoftReset low s

end Sys2Proof.Machine
end

