-- ==== Sys2Proof/Machine/HostAccess.lean ====
section
/-! DEFINITION. The host's register and buffer accesses that issue no command (spec/10_state.md R22 to R36,
spec/20_memory.md R60 and R70, spec/44_control.md R211 and R212). -/

namespace Sys2Proof.Machine

/-- A host read of a register (R22, R212): CMD and every reserved offset read 0. -/
def readReg (s : State) (off : BitVec 8) : Word :=
  match off.toNat with
  | 0x04 => statusWord s
  | 0x08 => errcodeWord s
  | 0x0C => s.errOff
  | 0x10 => s.errVal
  | 0x14 => s.result
  | 0x18 => s.encLen
  | 0x1C => s.inLen
  | 0x20 => s.inPos
  | 0x24 => s.outLen
  | 0x28 => s.idxOutLen
  | 0x2C => s.decMcs.setWidth 32
  | 0x30 => pkNbits s
  | _ => 0

/-- A host write of a register other than CMD (R211): ENC_LEN, IN_LEN and IN_POS store the word; a read-only or reserved
offset ignores it. -/
def writeReg (off : BitVec 8) (v : Word) (s : State) : State :=
  match off.toNat with
  | 0x18 => { s with encLen := v }
  | 0x1C => { s with inLen := v }
  | 0x20 => { s with inPos := v }
  | _ => s

/-- The host reads a register. -/
def hostReadReg (off : BitVec 8) (s : State) : Host.Outcome State Fault Refusal :=
  .next { s with readData := readReg s off }

/-- The host reads a buffer cell: any buffer (R60, R70). -/
def hostReadCell (sp : Space) (a : Nat) (s : State) : Host.Outcome State Fault Refusal :=
  if a < s.caps.size sp then .next { s with readData := (s.cell sp a).setWidth 32 } else .fault .noSuchCell

/-- The host writes a cell of one of its own two buffers. -/
def storeCell (sp : Space) (a : Nat) (v : Byte) (s : State) : Host.Outcome State Fault Refusal :=
  if a < s.caps.size sp then .next (s.setBuf sp (Memory.write (s.buf sp) a v)) else .fault .noSuchCell

/-- The host writes a buffer cell: IDX_IN always, BYTE_IN while the unpacker is unbound, the two output buffers never
(R60, R70, R266, U21, U24). -/
def hostWriteCell (sp : Space) (a : Nat) (v : Byte) (s : State) : Host.Outcome State Fault Refusal :=
  match sp with
  | .idxIn => storeCell .idxIn a v s
  | .byteIn => if s.upBound then .refused .byteInWriteWhileBound else storeCell .byteIn a v s
  | .idxOut => .refused .outputBufferWrite
  | .byteOut => .refused .outputBufferWrite

/-- A host write, which the host has no move for while STATUS.BUSY = 1 (R215, R265, U22). -/
def unlessBusy (s : State) (k : State → Host.Outcome State Fault Refusal) : Host.Outcome State Fault Refusal :=
  if s.busy then .refused .hostWriteWhileBusy else k s

end Sys2Proof.Machine
end

