-- ==== Sys2Proof/Machine/Issue.lean ====
section
/-! DEFINITION. A CMD write (spec/10_state.md R23, spec/44_control.md R213 and R214) and what each input does. -/

namespace Sys2Proof.Machine

/-- The fault of an illegal command word (R83, R213): its value is the whole word. -/
def illegalWord (c : Word) : BlockFault := ⟨.illegalCommand, 0, c.toNat⟩

/-- Dispatch a command word (R214). While an error is latched, `exec` drops every command but SOFT_RESET and `raiseFault`
changes nothing (assumption 17). -/
def issue (c : Word) (s : State) : Host.Outcome State Fault Refusal :=
  match decode c with
  | .ok i => exec i s
  | .error _ => .next (raiseFault (illegalWord c) s)

/-- The command's end clears STATUS.BUSY (R24). -/
def endCommand : Host.Outcome State Fault Refusal → Host.Outcome State Fault Refusal
  | .next t => .next (t.setBusy false)
  | .fault f => .fault f
  | .refused r => .refused r

/-- A host write of CMD: STATUS.BUSY is 1 from the write to the command's last effect (R23, R24, R265). -/
def hostCommand (c : Word) (s : State) : Host.Outcome State Fault Refusal :=
  endCommand (issue c (s.setBusy true))

/-- A host write of a register; offset 0x00 is CMD (R22, R211). -/
def hostWriteReg (off : BitVec 8) (v : Word) (s : State) : Host.Outcome State Fault Refusal :=
  if off = 0x00 then hostCommand v s else .next (writeReg off v s)

/-- One action of the outside world (R70, R260). -/
def perform (i : Input) (s : State) : Host.Outcome State Fault Refusal :=
  match i with
  | .writeReg off v => unlessBusy s (hostWriteReg off v)
  | .readReg off => hostReadReg off s
  | .writeCell sp a v => unlessBusy s (hostWriteCell sp a v)
  | .readCell sp a => hostReadCell sp a s
  | .hardwareReset => .next (hardwareReset s)

end Sys2Proof.Machine
end

