-- ==== Sys2Proof/Machine/Step.lean ====
section
/-! DEFINITION. One step: the block takes the next action of the outside world, and does nothing by itself
(spec/20_memory.md R70). -/

namespace Sys2Proof.Machine

/-- One step. With no action pending the block is idle and keeps its state (R70, R248). -/
def step (s : State) : Host.Outcome State Fault Refusal :=
  match s.inputs with
  | [] => .next s
  | i :: rest => perform i (s.takeInput rest)

/-- The state whose very next step issues the command word: a host write of it to CMD stands first among the inputs
(R23, assumption 1). -/
def State.withFetchWord (s : State) (nbits w : Nat) : State :=
  { s with inputs := .writeReg 0x00 (tableWord nbits w) :: s.inputs }

end Sys2Proof.Machine
end

