-- ==== Sys2Proof/Machine/HardwarePacker.lean ====
section
/-! DEFINITION. The packer as hardware may keep it (spec/40_bit_packer.md R117): sealed sub-blocks, an open sub-block, a
partial byte. No step calls it; it is what R117 says is equivalent to `PK.bits` and `frame`. -/

namespace Sys2Proof.Machine

structure HwPacker where
  /-- The sealed sub-blocks, the first first; 255 bytes each. -/
  blocks    : List (List Byte)
  /-- The complete bytes of the open sub-block, 0 to 254. -/
  openBlock : List Byte
  /-- The partial byte. -/
  acc       : Nat
  /-- Bits in `acc`, 0 to 7. -/
  nacc      : Nat
deriving DecidableEq, Repr

/-- An opened packer. -/
def HwPacker.empty : HwPacker := ⟨[], [], 0, 0⟩

/-- One complete payload byte; the 255th seals the sub-block (R117, R92). -/
def HwPacker.pushByte (h : HwPacker) (b : Byte) : HwPacker :=
  if h.openBlock.length + 1 = Config.subblockMax then
    { h with blocks := h.blocks ++ [h.openBlock ++ [b]], openBlock := [] }
  else { h with openBlock := h.openBlock ++ [b] }

/-- One bit, at the lowest free position of the partial byte (R112). -/
def HwPacker.addBit (h : HwPacker) (b : Bool) : HwPacker :=
  if h.nacc = 7 then { h with acc := 0, nacc := 0 }.pushByte (BitVec.ofNat 8 (h.acc + b.toNat * 2 ^ 7))
  else { h with acc := h.acc + b.toNat * 2 ^ h.nacc, nacc := h.nacc + 1 }

/-- Finish's flush of the partial byte (R117). -/
def HwPacker.flushByte (h : HwPacker) : HwPacker :=
  if h.nacc > 0 then { h with acc := 0, nacc := 0 }.pushByte (BitVec.ofNat 8 h.acc) else h

/-- Seal the open block when it is non-empty, drop it when it is empty (R117). -/
def HwPacker.allBlocks (h : HwPacker) : List (List Byte) :=
  if h.openBlock.isEmpty then h.blocks else h.blocks ++ [h.openBlock]

/-- A sub-block with its length byte, written retroactively (R117). -/
def withLength (block : List Byte) : List Byte := BitVec.ofNat 8 block.length :: block

/-- Finish (R117). -/
def HwPacker.finish (h : HwPacker) (pre : Byte) : List Byte :=
  pre :: h.flushByte.allBlocks.flatMap withLength ++ [0]

end Sys2Proof.Machine
end

