-- ==== Sys2Proof/Safety.lean ====
section
/-! DEFINITION. What counts as a well-formed state and a safe run, and the words the statements use: the invariant of State,
the ranges of the working states ENC and DEC, code widths and the code-stream grammar. -/

namespace Sys2Proof.Machine

/-! ## States -/

/-- No error is latched: the premise of a claim about a run (spec/60_exceptions.md R237). -/
def State.noError (s : State) : Prop := s.err = false

/-- The bounds of a bound unpacker's cursor (R41): `rem` at most 254 and `boff` at most 8; an unread bit is in the byte just
before `pos`. -/
structure Cursor.Inv (cap : Nat) (u : Cursor) : Prop where
  len_le    : u.len ≤ cap
  pos_lt    : u.pos < 2 ^ 32
  rem_le    : u.rem ≤ 254
  boff_le   : u.boff ≤ 8
  curpos_lt : u.curpos < 2 ^ 32
  unread    : u.boff < 8 → u.curpos + 1 = u.pos ∧ u.pos ≤ u.len

/-- What every state a run meets keeps. -/
structure State.Inv (s : State) : Prop where
  /-- Each capacity is in [1, 2^32-1] (R6). -/
  caps_ok      : s.caps.wf = true
  /-- BUSY is 0 whenever the host can act (R265). -/
  not_busy     : s.busy = false
  /-- With ERR = 0 nothing is latched, with ERR = 1 a code is (R25, R236). -/
  latch_clear  : s.err = false → s.errcode = none ∧ s.errOff = 0 ∧ s.errVal = 0
  latch_set    : s.err = true → s.errcode.isSome = true
  /-- Every buffer is in canonical form and within its capacity (R60). -/
  mem_wf       : ∀ sp, Memory.wf (s.buf sp)
  mem_in       : ∀ sp, ∀ c ∈ s.buf sp, c.1 < s.caps.size sp
  /-- The output lengths are lengths of what the buffers can hold (R32, R33). -/
  out_len_le   : s.outLen.toNat ≤ s.caps.byteOut
  idx_len_le   : s.idxOutLen.toNat ≤ s.caps.idxOut
  /-- DEC_MCS is 0 or a legal code size (R34). -/
  dec_mcs_ok   : s.decMcs = 0 ∨ (2 ≤ s.decMcs.toNat ∧ s.decMcs.toNat ≤ 8)
  /-- The packer never holds more bits than a finish could write (R118). -/
  pk_fits      : s.pkBits = [] ∨ flen s.pkBits.length ≤ s.caps.byteOut
  /-- A bound cursor keeps R41's ranges. -/
  up_ok        : s.upBound = true → s.up.Inv s.caps.byteIn

/-- The state with the error latch of `t`, and otherwise `s`. -/
def State.withLatchOf (s t : State) : State :=
  { s with err := t.err, errcode := t.errcode, errOff := t.errOff, errVal := t.errVal }

/-- Two states with an unbound unpacker that differ at most in its unspecified cursor fields (R47, U17). -/
def State.sameButUnboundCursor (s t : State) : Prop :=
  s.upBound = false ∧ t.upBound = false ∧ t = { s with up := t.up }

/-- A reserved register offset (R36). -/
def reservedOffset (off : BitVec 8) : Prop := off.toNat ≥ 0x34 ∨ off.toNat % 4 ≠ 0

/-- R231's numbers, written out row by row for the statements. -/
def errorCodeTable : List (ErrCode × Word) :=
  [(.configInvalidCodeSize, 0x01), (.configEmptyInput, 0x02), (.configBadIndex, 0x03), (.configBadWidth, 0x04),
   (.configBadLength, 0x05), (.malformedBadCodeSize, 0x10), (.malformedNoInitialClear, 0x11),
   (.malformedPrematureEnd, 0x12), (.malformedTrailingData, 0x13), (.malformedNoTerminator, 0x14),
   (.truncatedStream, 0x20), (.dictionaryDesync, 0x30), (.illegalCommand, 0x40), (.unitBusy, 0x41),
   (.sequenceError, 0x42), (.outputOverflow, 0x43)]

/-- A code of R83's first list: assigned to no command. -/
def unassignedOpc (k : Nat) : Prop := k = 0x00 ∨ k = 0x07 ∨ (0x0A ≤ k ∧ k ≤ 0x0E) ∨ (0x10 ≤ k ∧ k ≤ 0xFF)

/-- R82's "must be 0" fields of an assigned operation code do not hold (R83's second case). -/
def mustBeFieldSet (c : Word) : Prop :=
  ((opcOf c = 0x01 ∨ opcOf c = 0x04 ∨ opcOf c = 0x06 ∨ opcOf c = 0x09) ∧ bits c 23 0 ≠ 0) ∨
  (opcOf c = 0x02 ∧ bits c 19 16 ≠ 0) ∨ (opcOf c = 0x03 ∧ bits c 23 8 ≠ 0) ∨
  (opcOf c = 0x05 ∧ bits c 19 0 ≠ 0) ∨ (opcOf c = 0x08 ∧ bits c 23 16 ≠ 0)

/-- A state that is about to issue the command word `c`, with `rest` to follow. -/
def State.aboutToIssue (s : State) (c : Word) (rest : List Input) : Prop :=
  s.inputs = .writeReg 0x00 c :: rest ∧ s.busy = false

/-! ## Streams -/

/-- The width of the next code after a data code left the dictionary at `size` (R190). -/
def grownWidth (size cb : Nat) : Nat := if size = 2 ^ cb ∧ cb < 12 then cb + 1 else cb

/-- Every element of an encoder input is below `2^m` (R150). -/
def indicesBelow (m : Nat) (xs : List Byte) : Prop := ∀ x ∈ xs, x.toNat < 2 ^ m

/-- The cells `p, p+1, …` hold the bytes. -/
def holdsAt (rd : Nat → Byte) (p : Nat) (bytes : List Byte) : Prop :=
  ∀ i, i < bytes.length → bytes[i]? = some (rd (p + i))

/-- `bitlen(x)` for `x >= 1` (R88). -/
def bitlen (x : Nat) : Nat := Nat.log2 x + 1

/-- `w(m, j)` (R88): the width of a code with `j` data codes since the latest CLEAR. -/
def widthAfter (m j : Nat) : Nat := min 12 (bitlen (2 ^ m + 1 + j))

/-- Every code of the list has the width R88 gives it, `j` data codes having come since the latest CLEAR. -/
def followsWidths (m : Nat) : Nat → List (Nat × Nat) → Prop
  | _, [] => True
  | j, (c, w) :: rest => w = widthAfter m j ∧ followsWidths m (if c = clearCode m then 0 else j + 1) rest

/-- `J_MAX(m)` (R88): the data codes a segment holds at most. -/
def jMax (m : Nat) : Nat := 4095 - 2 ^ m

/-- A literal or a learned code (R87). -/
def isDataCode (m c : Nat) : Prop := c < 2 ^ m ∨ (2 ^ m + 2 ≤ c ∧ c ≤ 4095)

/-- Read codes of the given widths one after the other (R136). -/
def readAll (rd : Nat → Byte) : List Nat → Cursor → Except BlockFault (List Nat × Cursor)
  | [], u => .ok ([], u)
  | w :: ws, u =>
    match readCode rd w u with
    | .error f => .error f
    | .ok r =>
      match readAll rd ws r.cursor with
      | .error f => .error f
      | .ok (vs, u2) => .ok (r.value :: vs, u2)

/-- The stream bits a cursor has not read yet, at most. -/
def Cursor.bitsLeft (u : Cursor) : Nat := 8 * (u.len - u.pos) + (8 - u.boff)

/-! ## The ranges of the working states -/

/-- ENC between two input indices (R42, R164): a code fits the width it would be emitted at, and so did every emitted one. -/
structure Enc.Inv (e : Enc) : Prop where
  m_ok       : 2 ≤ e.m ∧ e.m ≤ 8
  cb_ok      : e.m + 1 ≤ e.cb ∧ e.cb ≤ 12
  nf_ok      : firstFree e.m ≤ e.nf ∧ e.nf ≤ 2 ^ e.cb
  dict_ok    : ∀ k ∈ e.dict, firstFree e.m ≤ k.2 ∧ k.2 < e.nf
  buf_ok     : ∀ b, e.buf = some b → isDataCode e.m b ∧ b < e.nf
  emitted_ok : ∀ cw ∈ e.emitted, cw.1 < 2 ^ cw.2 ∧ e.m + 1 ≤ cw.2 ∧ cw.2 ≤ 12

/-- DEC between two codes (R43, R196): every learned code below the size has a sequence, and its length is bounded. -/
structure Dec.Inv (d : Dec) : Prop where
  m_ok     : 2 ≤ d.m ∧ d.m ≤ 8
  cb_ok    : d.m + 1 ≤ d.cb ∧ d.cb ≤ 12
  size_ok  : firstFree d.m ≤ d.size ∧ (d.size < 2 ^ d.cb ∨ d.size = 4096 ∧ d.cb = 12)
  table_ok : ∀ c, firstFree d.m ≤ c → c < d.size →
    ∃ s, d.table.lookup c = some s ∧ 1 ≤ s.length ∧ s.length ≤ c - firstFree d.m + 2
  prev_ok  : ∀ p, d.prev = some p → 1 ≤ p.length ∧ p.length ≤ d.size - firstFree d.m + 1

end Sys2Proof.Machine
end

