-- ==== Sys2Proof/Certificates/Slice0/Obligations.lean ====
section
/-! DEFINITION. The statements for the provers. Each docstring names the rule of spec/ it follows. `exec` is one command's
meaning, `step` one action of the outside world. A read of one cell is `State.cell` (or `Memory.lookup` where the draw of
free values does not matter). -/

open Sys2Proof Sys2Proof.Machine

/-! ## Encoding -/

/-- A few words written out from spec/30_encoding.md R82 and spec/95_test_vectors.md: ten legal, five illegal. That
SOFT_RESET's ignored bits decode to an operand is the model's choice (assumption 18). -/
def Obligations.SpecWordsDecode : Prop :=
  decode 0x01000000 = .ok .pkOpen ∧ decode 0x02300004 = .ok (.pkAdd 3 4) ∧
  decode 0x02C00FFF = .ok (.pkAdd 12 0xFFF) ∧ decode 0x03000002 = .ok (.pkFinish 2) ∧
  decode 0x04000000 = .ok .upOpen ∧ decode 0x05300000 = .ok (.upRead 3) ∧
  decode 0x06000000 = .ok .upClose ∧ decode 0x08000100 = .ok (.encRun 0x100) ∧
  decode 0x09000000 = .ok .decRun ∧ decode 0x0FFFFFFF = .ok (.softReset 0xFFFFFF) ∧
  decode 0x00000000 = .error .unassignedOpcode ∧ decode 0x07000000 = .error .unassignedOpcode ∧
  decode 0x03000102 = .error .mustBeZeroFieldSet ∧ decode 0x02310000 = .error .mustBeZeroFieldSet ∧
  decode 0x08100002 = .error .mustBeZeroFieldSet

/-- Decode and encode agree on every well-formed command (R82, R85). -/
def Obligations.DecodeOfEncodeIsIdentity : Prop :=
  ∀ i : Instr, wellFormed i = true → decode (encode i) = .ok i

/-- Every legal word is the word of the well-formed command it decodes to, so no word spells two (R82, R85). -/
def Obligations.EncodeOfDecodeIsIdentity : Prop :=
  ∀ (c : Word) (i : Instr), decode c = .ok i → wellFormed i = true ∧ encode i = c

/-- The decoder accepts a word as a command of operation code `k` exactly when a row of R82's match and mask columns with
that code accepts it. -/
def Obligations.DecoderAgreesWithOpcodeMap : Prop :=
  ∀ (c : Word) (k : Nat), (∃ i, decode c = .ok i ∧ opcodeOf i = k) ↔
    ∃ r ∈ opcodeTable, r.accepts c = true ∧ opcOf r.pattern = k

/-- The illegal words are exactly those of R83's two lists. -/
def Obligations.IllegalWordsAreThoseListed : Prop :=
  ∀ c : Word, (∀ i, decode c ≠ .ok i) ↔ unassignedOpc (opcOf c) ∨ mustBeFieldSet c

/-! ## The step: issuing commands -/

/-- A CMD write of a legal word runs the decoded command on the state with the input taken and BUSY set, and clears BUSY at
its end (R23, R24, R214). -/
def Obligations.StepRunsTheDecodedCommand : Prop :=
  ∀ (s t : State) (c : Word) (rest : List Input) (i : Instr),
    s.aboutToIssue c rest → decode c = .ok i →
    exec i ((s.takeInput rest).setBusy true) = .next t → step s = .next (t.setBusy false)

/-- With nothing to do the block keeps its state (R70, R248). -/
def Obligations.IdleBlockKeepsItsState : Prop :=
  ∀ s : State, s.inputs = [] → step s = .next s

/-- R213: an illegal word latches ILLEGAL_COMMAND with offset 0 and the whole word, and has no other effect. -/
def Obligations.IllegalWordLatchesIllegalCommand : Prop :=
  ∀ (s : State) (c : Word) (rest : List Input),
    s.aboutToIssue c rest → s.err = false → (unassignedOpc (opcOf c) ∨ mustBeFieldSet c) →
    step s = .next { s.takeInput rest with err := true, errcode := some .illegalCommand, errOff := 0, errVal := c }

/-- R214, R270: while an error is latched every word but SOFT_RESET's is dropped: only the input is gone. -/
def Obligations.LatchedErrorDropsOtherWords : Prop :=
  ∀ (s : State) (c : Word) (rest : List Input),
    s.aboutToIssue c rest → s.err = true → opcOf c ≠ 0x0F → step s = .next (s.takeInput rest)

/-- R25, R237: a latched error stays as the first fault left it until SOFT_RESET or hardware reset. -/
def Obligations.LatchedErrorStaysUntilReset : Prop :=
  ∀ s t : State, step s = .next t → s.err = true →
    (∀ rest, s.inputs ≠ .hardwareReset :: rest) →
    (∀ c rest, s.inputs = .writeReg 0x00 c :: rest → opcOf c ≠ 0x0F) →
    t.err = true ∧ t.errcode = s.errcode ∧ t.errOff = s.errOff ∧ t.errVal = s.errVal

/-- R274: every command ends; none faults the machine, is refused or runs on, in any state. -/
def Obligations.EveryCommandEnds : Prop :=
  ∀ (i : Instr) (s : State), ∃ t, exec i s = .next t

/-- R236: the latch takes the code, the offset and the value, at most once. A number of 32 bits is latched as it is; what a
larger one leaves is a free value (assumption 4). -/
def Obligations.FirstFaultIsLatched : Prop :=
  ∀ (f : BlockFault) (s : State),
    (s.err = true → raiseFault f s = s) ∧
    (s.err = false → f.off < 2 ^ 32 → f.val < 2 ^ 32 →
      raiseFault f s =
        { s with
          err := true, errcode := some f.code
          errOff := BitVec.ofNat 32 f.off, errVal := BitVec.ofNat 32 f.val })

/-- R236, R69: a command that faults changes nothing but the error latch. -/
def Obligations.FaultingCommandChangesOnlyTheLatch : Prop :=
  ∀ (i : Instr) (s t : State), exec i s = .next t → s.err = false → t.err = true →
    t = s.withLatchOf t ∧ t.errcode.isSome = true

/-! ## The bit packer -/

/-- R111: PK_OPEN empties the packer; PK_PENDING and PK_NBITS become 0. -/
def Obligations.PkOpenEmptiesThePacker : Prop :=
  ∀ s : State, s.err = false →
    ∃ t, exec .pkOpen s = .next t ∧ t = { s with pkBits := [] } ∧ pkPending t = false ∧ pkNbits t = 0

/-- R112, R113: PK_ADD at a legal width, where a finish would still fit, appends the low `w` bits of the value, the
low-order bit first. -/
def Obligations.PkAddAppendsTheLowBits : Prop :=
  ∀ (w v : Nat) (s : State), s.err = false → 1 ≤ w → w ≤ 12 →
    flen (s.pkBits.length + w) ≤ s.caps.byteOut →
    ∃ t, exec (.pkAdd w v) s = .next t ∧ t = { s with pkBits := s.pkBits ++ lowBits v w } ∧
      pkPending t = true ∧ t.pkBits.length = s.pkBits.length + w ∧
      ∀ i, i < w → t.pkBits[s.pkBits.length + i]? = some (v.testBit i)

/-- R113, R116, R118: PK_ADD reports a width outside [1,12] first, then a stream a finish could not write; PK_FINISH reports
a frame that does not fit. Each keeps the bits. -/
def Obligations.PackerFaultsInOrder : Prop :=
  ∀ (w v p : Nat) (s : State), s.err = false →
    ((w < 1 ∨ 12 < w) → exec (.pkAdd w v) s = .next (raiseFault ⟨.configBadWidth, 0, w⟩ s)) ∧
    (1 ≤ w → w ≤ 12 → s.caps.byteOut < flen (s.pkBits.length + w) →
      exec (.pkAdd w v) s = .next (raiseFault ⟨.outputOverflow, 0, flen (s.pkBits.length + w)⟩ s)) ∧
    (s.caps.byteOut < (frame (BitVec.ofNat 8 p) s.pkBits).length →
      exec (.pkFinish p) s =
        .next (raiseFault ⟨.outputOverflow, 0, (frame (BitVec.ofNat 8 p) s.pkBits).length⟩ s))

/-- R116: PK_FINISH writes the frame to BYTE_OUT from cell 0, its length to OUT_LEN and RESULT, and empties the packer. -/
def Obligations.PkFinishWritesTheFrame : Prop :=
  ∀ (p : Nat) (s : State), s.err = false →
    (frame (BitVec.ofNat 8 p) s.pkBits).length ≤ s.caps.byteOut →
    ∃ t, exec (.pkFinish p) s = .next t ∧
      (∀ a, t.cell .byteOut a = ((frame (BitVec.ofNat 8 p) s.pkBits)[a]?).getD (s.cell .byteOut a)) ∧
      t = { s with
        byteOut := t.byteOut, pkBits := []
        outLen := BitVec.ofNat 32 (frame (BitVec.ofNat 8 p) s.pkBits).length
        result := BitVec.ofNat 32 (frame (BitVec.ofNat 8 p) s.pkBits).length }

/-- R90: payload byte `q` has bit `i` equal to stream bit `8q+i`, and 0 past the end of the stream. -/
def Obligations.PayloadBytesHoldTheStreamBits : Prop :=
  ∀ (bs : List Bool) (q i : Nat),
    (payload bs).length = ceilDiv bs.length 8 ∧
    (q < ceilDiv bs.length 8 → i < 8 →
      ∃ b, (payload bs)[q]? = some b ∧ b.getLsbD i = (bs[8 * q + i]?).getD false)

/-- R92: the payload is cut from the front into sub-blocks of 255 bytes, the last taking what is left; none is empty, and
joining them gives the payload. -/
def Obligations.FrameIsPrefixSubBlocksTerminator : Prop :=
  ∀ (pre : Byte) (bs : List Bool), ∃ blocks : List (List Byte),
    frame pre bs = pre :: blocks.flatMap (fun b => BitVec.ofNat 8 b.length :: b) ++ [0] ∧
    (∀ b ∈ blocks, 1 ≤ b.length ∧ b.length ≤ 255) ∧ (∀ b ∈ blocks.dropLast, b.length = 255) ∧
    blocks.flatten = payload bs ∧ blocks.length = ceilDiv (payload bs).length 255

/-- R115: the length of a frame. -/
def Obligations.FrameLengthIsFlen : Prop :=
  ∀ (pre : Byte) (bs : List Bool), (frame pre bs).length = flen bs.length

/-- R118, R35: in every state that keeps the invariant, the packer holds at most `8 * BYTE_OUT_CAP` bits. -/
def Obligations.PackerBitsAreBounded : Prop :=
  ∀ s : State, s.Inv → s.pkBits.length ≤ 8 * s.caps.byteOut

/-- R117: the hardware form of the packer gives exactly the frame of the bits added to it, and keeps R117's count. -/
def Obligations.HardwarePackerGivesTheFrame : Prop :=
  ∀ (pre : Byte) (bs : List Bool),
    (bs.foldl HwPacker.addBit HwPacker.empty).finish pre = frame pre bs ∧
    ∃ h, h = bs.foldl HwPacker.addBit HwPacker.empty ∧ h.openBlock.length ≤ 254 ∧ h.nacc ≤ 7 ∧
      bs.length = 8 * (255 * h.blocks.length + h.openBlock.length) + h.nacc

/-! ## The bit unpacker -/

/-- R131: UP_OPEN latches IN_POS and IN_LEN; a length above the capacity raises CONFIG_BAD_LENGTH. -/
def Obligations.UpOpenBindsAtInPos : Prop :=
  ∀ s : State, s.err = false →
    (s.inLen.toNat ≤ s.caps.byteIn →
      exec .upOpen s = .next { s with
        upBound := true
        up := { pos := s.inPos.toNat, len := s.inLen.toNat, rem := 0, cur := 0, boff := 8, curpos := s.inPos.toNat } }) ∧
    (s.caps.byteIn < s.inLen.toNat →
      exec .upOpen s = .next (raiseFault ⟨.configBadLength, 0, s.inLen.toNat⟩ s))

/-- R132: the next bit. A bit of the current byte reads no cell; a payload byte is read when the current byte is used up; a
length byte only when the sub-block is used up too. -/
def Obligations.NextBitIsLazy : Prop :=
  ∀ (rd : Nat → Byte) (u : Cursor),
    (u.boff < 8 → nextBit rd u = .ok (u.cur.getLsbD u.boff, { u with boff := u.boff + 1 })) ∧
    (u.boff = 8 → u.rem ≠ 0 → u.pos < u.len →
      nextBit rd u = .ok ((rd u.pos).getLsbD 0,
        { u with cur := rd u.pos, curpos := u.pos, pos := u.pos + 1, rem := u.rem - 1, boff := 1 })) ∧
    (u.boff = 8 → u.rem = 0 → rd u.pos ≠ 0 → u.pos + 1 < u.len →
      nextBit rd u = .ok ((rd (u.pos + 1)).getLsbD 0,
        { u with cur := rd (u.pos + 1), curpos := u.pos + 1, pos := u.pos + 2, rem := (rd u.pos).toNat - 1, boff := 1 })) ∧
    (u.boff = 8 → u.len ≤ u.pos → nextBit rd u = .error ⟨.truncatedStream, u.pos, 0⟩) ∧
    (u.boff = 8 → u.rem = 0 → u.pos < u.len → rd u.pos = 0 →
      nextBit rd u = .error ⟨.malformedPrematureEnd, u.pos, 0⟩) ∧
    (u.boff = 8 → u.rem = 0 → u.pos < u.len → rd u.pos ≠ 0 → u.len ≤ u.pos + 1 →
      nextBit rd u = .error ⟨.truncatedStream, u.pos + 1, 0⟩)

/-- R133: UP_READ at a legal width on a bound unpacker returns the value read, which fits its width, and moves the cursor.
R134: a read of `w` bits is `w` successive next bits, along the cursors `cs`: bit `i` of the value is the `i`-th of them, the
start is the index of the byte that holds the first one, and the first fault ends the read. -/
def Obligations.UpReadReturnsTheNextBits : Prop :=
  (∀ (w : Nat) (s : State) (r : CodeRead), s.err = false → s.upBound = true → 1 ≤ w → w ≤ 12 →
    readCode (s.cell .byteIn) w s.up = .ok r →
    exec (.upRead w) s = .next { s with up := r.cursor, result := BitVec.ofNat 32 r.value } ∧ r.value < 2 ^ w) ∧
  ∀ (rd : Nat → Byte) (w : Nat) (bit : Nat → Bool) (cs : Nat → Cursor), 1 ≤ w →
    ((∀ i, i < w → nextBit rd (cs i) = .ok (bit i, cs (i + 1))) →
      ∃ r, readCode rd w (cs 0) = .ok r ∧ (∀ i, i < w → r.value.testBit i = bit i) ∧ r.value < 2 ^ w ∧
        r.start = (cs 1).curpos ∧ r.cursor = cs w) ∧
    (∀ k f, k < w → (∀ i, i < k → nextBit rd (cs i) = .ok (bit i, cs (i + 1))) → nextBit rd (cs k) = .error f →
      readCode rd w (cs 0) = .error f)

/-- R133, R135: UP_READ's faults, in its order (unbound, width, stream), and UP_CLOSE's (unbound, payload left, buffer end,
non-zero terminator). A fault leaves UP unchanged. -/
def Obligations.UnpackerFaultsInOrder : Prop :=
  ∀ (w : Nat) (s : State), s.err = false →
    (s.upBound = false → exec (.upRead w) s = .next (raiseFault ⟨.sequenceError, 0, 0x05⟩ s)) ∧
    (s.upBound = true → (w < 1 ∨ 12 < w) → exec (.upRead w) s = .next (raiseFault ⟨.configBadWidth, 0, w⟩ s)) ∧
    (s.upBound = true → 1 ≤ w → w ≤ 12 → ∀ f, readCode (s.cell .byteIn) w s.up = .error f →
      exec (.upRead w) s = .next (raiseFault f s)) ∧
    (s.upBound = false → exec .upClose s = .next (raiseFault ⟨.sequenceError, 0, 0x06⟩ s)) ∧
    (s.upBound = true → 0 < s.up.rem →
      exec .upClose s = .next (raiseFault ⟨.malformedTrailingData, s.up.pos, s.up.rem⟩ s)) ∧
    (s.upBound = true → s.up.rem = 0 → s.up.len ≤ s.up.pos →
      exec .upClose s = .next (raiseFault ⟨.malformedNoTerminator, s.up.pos, 0⟩ s)) ∧
    (s.upBound = true → s.up.rem = 0 → s.up.pos < s.up.len → s.cell .byteIn s.up.pos ≠ 0 →
      exec .upClose s =
        .next (raiseFault ⟨.malformedNoTerminator, s.up.pos, (s.cell .byteIn s.up.pos).toNat⟩ s))

/-- R135: UP_CLOSE at a used-up sub-block and a zero terminator. -/
def Obligations.UpCloseConsumesTheTerminator : Prop :=
  ∀ s : State, s.err = false → s.upBound = true → s.up.rem = 0 → s.up.pos < s.up.len →
    s.cell .byteIn s.up.pos = 0 →
    exec .upClose s = .next { s with
      inPos := BitVec.ofNat 32 (s.up.pos + 1), result := BitVec.ofNat 32 (s.up.pos + 1), upBound := false }

/-- R137: a read depends on no cell below the cursor or at or above `len`. -/
def Obligations.ReadsStayBelowTheLatchedLength : Prop :=
  ∀ (rd rd' : Nat → Byte) (w : Nat) (u : Cursor),
    (∀ a, u.pos ≤ a → a < u.len → rd a = rd' a) →
    readCode rd w u = readCode rd' w u ∧ closeStream rd u = closeStream rd' u

/-- R136, R119: reading the widths of what was packed gives the packed values, and the end-of-stream check then finds the
terminator at the frame's last byte. -/
def Obligations.UnpackerInvertsPacker : Prop :=
  ∀ (codes : List (Nat × Nat)) (pre : Byte) (rd : Nat → Byte) (p n : Nat),
    (∀ cw ∈ codes, 1 ≤ cw.2) → holdsAt rd p (frame pre (codeBits codes)) →
    p + (frame pre (codeBits codes)).length ≤ n →
    ∃ u, readAll rd (codes.map Prod.snd) (Cursor.openAt (p + 1) n) =
        .ok (codes.map fun cw => cw.1 % 2 ^ cw.2, u) ∧
      closeStream rd u = .ok (p + (frame pre (codeBits codes)).length)

/-! ## The encoder -/

/-- R150: ENC_RUN on a legal input whose stream fits. -/
def Obligations.EncRunWritesTheStream : Prop :=
  ∀ (mcs : Nat) (s : State), s.err = false → s.pkBits = [] → mcs ≤ 8 → s.encLen ≠ 0 →
    s.encLen.toNat ≤ s.caps.idxIn →
    (∀ k, k < s.encLen.toNat → (s.cell .idxIn k).toNat < 2 ^ max mcs 2) →
    (encStream (encInput s) (max mcs 2)).length ≤ s.caps.byteOut →
    ∃ t, exec (.encRun mcs) s = .next t ∧
      (∀ a, t.cell .byteOut a = ((encStream (encInput s) (max mcs 2))[a]?).getD (s.cell .byteOut a)) ∧
      t = { s with
        byteOut := t.byteOut
        outLen := BitVec.ofNat 32 (encStream (encInput s) (max mcs 2)).length
        result := BitVec.ofNat 32 (encStream (encInput s) (max mcs 2)).length
        warnClamp := decide (mcs < 2) }

/-- R160: ENC_RUN's checks, the first that fails being the one reported. -/
def Obligations.EncRunFaultsInOrder : Prop :=
  ∀ (mcs : Nat) (s : State), s.err = false →
    (s.pkBits ≠ [] → exec (.encRun mcs) s = .next (raiseFault ⟨.unitBusy, 0, s.pkBits.length⟩ s)) ∧
    (s.pkBits = [] → 8 < mcs → exec (.encRun mcs) s = .next (raiseFault ⟨.configInvalidCodeSize, 0, mcs⟩ s)) ∧
    (s.pkBits = [] → mcs ≤ 8 → s.encLen = 0 →
      exec (.encRun mcs) s = .next (raiseFault ⟨.configEmptyInput, 0, 0⟩ s)) ∧
    (s.pkBits = [] → mcs ≤ 8 → s.encLen ≠ 0 → s.caps.idxIn < s.encLen.toNat →
      exec (.encRun mcs) s = .next (raiseFault ⟨.configBadLength, 0, s.encLen.toNat⟩ s)) ∧
    (∀ k, s.pkBits = [] → mcs ≤ 8 → s.encLen.toNat ≤ s.caps.idxIn → k < s.encLen.toNat →
      2 ^ max mcs 2 ≤ (s.cell .idxIn k).toNat →
      (∀ j, j < k → (s.cell .idxIn j).toNat < 2 ^ max mcs 2) →
      exec (.encRun mcs) s = .next (raiseFault ⟨.configBadIndex, k, (s.cell .idxIn k).toNat⟩ s)) ∧
    (s.pkBits = [] → mcs ≤ 8 → s.encLen ≠ 0 → s.encLen.toNat ≤ s.caps.idxIn →
      (∀ k, k < s.encLen.toNat → (s.cell .idxIn k).toNat < 2 ^ max mcs 2) →
      s.caps.byteOut < (encStream (encInput s) (max mcs 2)).length →
      exec (.encRun mcs) s =
        .next (raiseFault ⟨.outputOverflow, 0, (encStream (encInput s) (max mcs 2)).length⟩ s))

/-- R162, R242: the clamp warning is written by a successful ENC_RUN only, and cleared by SOFT_RESET (R24); no other command
changes it. It is no fault: beside it, a clamped ENC_RUN does what ENC_RUN 2 does (R151). -/
def Obligations.ClampWarningFollowsSuccess : Prop :=
  (∀ (mcs : Nat) (s t : State), s.err = false → exec (.encRun mcs) s = .next t →
    (t.err = false → t.warnClamp = decide (mcs < 2)) ∧ (t.err = true → t.warnClamp = s.warnClamp)) ∧
  (∀ (i : Instr) (s t : State), exec i s = .next t → t.warnClamp ≠ s.warnClamp →
    (s.err = false ∧ t.err = false ∧ ∃ mcs, i = .encRun mcs) ∨ (t.warnClamp = false ∧ ∃ low, i = .softReset low)) ∧
  (∀ (mcs : Nat) (s t t2 : State), mcs < 2 → exec (.encRun mcs) s = .next t → exec (.encRun 2) s = .next t2 →
    t = { t2 with warnClamp := t.warnClamp })

/-- The encoder's steps and ranges. R152, R153: where a run starts. R154: the first index, and a hit. R155 to R157: a miss,
where the assigned code leaves the width alone, makes it grow, or meets the 12-bit ceiling. R158: the final flush, in the
same three cases. R159, R163: the whole run. R42, R164: ENC keeps its ranges from its start over every input index below
`2^m`; and every code of a whole run fits its width, which is in [m+1, 12]. -/
def Obligations.EncoderKeepsItsRanges : Prop :=
  (∀ m, Enc.start m = ⟨m, m + 1, 2 ^ m + 2, [], none, [(2 ^ m, m + 1)]⟩) ∧
  (∀ (e : Enc) (x : Byte), e.buf = none → e.consume x = { e with buf := some x.toNat }) ∧
  (∀ (e : Enc) (x : Byte) (b c : Nat), e.buf = some b → e.dict.lookup (b, x) = some c →
    e.consume x = { e with buf := some c }) ∧
  (∀ (e : Enc) (x : Byte) (b : Nat), e.buf = some b → e.dict.lookup (b, x) = none →
    (e.nf ≠ 2 ^ e.cb →
      e.consume x = { e with
        emitted := e.emitted ++ [(b, e.cb)], dict := ((b, x), e.nf) :: e.dict, nf := e.nf + 1
        buf := some x.toNat }) ∧
    (e.nf = 2 ^ e.cb → e.cb < 12 →
      e.consume x = { e with
        emitted := e.emitted ++ [(b, e.cb)], dict := ((b, x), e.nf) :: e.dict, nf := e.nf + 1
        cb := e.cb + 1, buf := some x.toNat }) ∧
    (e.nf = 2 ^ e.cb → e.cb = 12 →
      e.consume x = { e with
        emitted := e.emitted ++ [(b, 12), (2 ^ e.m, 12)], dict := [], nf := 2 ^ e.m + 2
        cb := e.m + 1, buf := some x.toNat })) ∧
  (∀ (e : Enc) (b : Nat), e.buf = some b →
    (e.nf ≠ 2 ^ e.cb → e.flush = { e with emitted := e.emitted ++ [(b, e.cb)], nf := e.nf + 1 }) ∧
    (e.nf = 2 ^ e.cb → e.cb < 12 →
      e.flush = { e with emitted := e.emitted ++ [(b, e.cb)], nf := e.nf + 1, cb := e.cb + 1 }) ∧
    (e.nf = 2 ^ e.cb → e.cb = 12 →
      e.flush = { e with
        emitted := e.emitted ++ [(b, 12), (2 ^ e.m, 12)], dict := [], nf := 2 ^ e.m + 2, cb := e.m + 1 })) ∧
  (∀ (m : Nat) (xs : List Byte) (e : Enc), xs ≠ [] → (xs.foldl Enc.consume (Enc.start m)).flush = e →
    encCodes xs m = e.emitted ++ [(2 ^ m + 1, e.cb)] ∧
    encStream xs m = frame (BitVec.ofNat 8 m) ((encCodes xs m).flatMap fun cw => lowBits cw.1 cw.2)) ∧
  (∀ m, 2 ≤ m → m ≤ 8 → (Enc.start m).Inv) ∧
  (∀ (e : Enc) (x : Byte), e.Inv → x.toNat < 2 ^ e.m → (e.consume x).Inv) ∧
  (∀ (m : Nat) (xs : List Byte), 2 ≤ m → m ≤ 8 → xs ≠ [] → indicesBelow m xs →
    ∀ cw ∈ encCodes xs m, cw.1 < 2 ^ cw.2 ∧ m + 1 ≤ cw.2 ∧ cw.2 ≤ 12)

/-- R88: every emitted code has the width the codes before it determine, the 12-bit ceiling and the final flush included. -/
def Obligations.EmittedWidthsFollowTheFormula : Prop :=
  ∀ (m : Nat) (xs : List Byte), 2 ≤ m → m ≤ 8 → xs ≠ [] → indicesBelow m xs →
    followsWidths m 0 (encCodes xs m)

/-- R93: the emitted codes are `CLEAR (DATA^J CLEAR)* DATA^r [CLEAR] EOI`, `1 <= r <= J`, the bracketed CLEAR present exactly
when `r = J`. -/
def Obligations.EmittedCodesFollowTheGrammar : Prop :=
  ∀ (m : Nat) (xs : List Byte), 2 ≤ m → m ≤ 8 → xs ≠ [] → indicesBelow m xs →
    ∃ (full : List (List Nat)) (last : List Nat),
      (encCodes xs m).map Prod.fst =
        clearCode m :: (full.flatMap (· ++ [clearCode m]) ++ last ++
          (if last.length = jMax m then [clearCode m] else []) ++ [eoiCode m]) ∧
      (∀ seg ∈ full, seg.length = jMax m ∧ ∀ c ∈ seg, isDataCode m c) ∧
      1 ≤ last.length ∧ last.length ≤ jMax m ∧ ∀ c ∈ last, isDataCode m c

/-- R165: two successful runs on the same input cells, length and operand write the same bytes, whatever else differs. -/
def Obligations.EncoderRunsAreIndependent : Prop :=
  ∀ (mcs : Nat) (s s' t t' : State), s.err = false → s'.err = false → s.encLen = s'.encLen →
    (∀ k, k < s.encLen.toNat → s.cell .idxIn k = s'.cell .idxIn k) →
    exec (.encRun mcs) s = .next t → exec (.encRun mcs) s' = .next t' → t.err = false → t'.err = false →
    t.outLen = t'.outLen ∧ t.warnClamp = t'.warnClamp ∧
      ∀ a, a < t.outLen.toNat → t.cell .byteOut a = t'.cell .byteOut a

/-! ## The decoder -/

/-- R180: DEC_RUN with the unpacker unbound, a legal IN_LEN and a stream `dec` accepts. -/
def Obligations.DecRunWritesTheIndices : Prop :=
  ∀ (s : State) (d : Decoded), s.err = false → s.upBound = false → s.inLen.toNat ≤ s.caps.byteIn →
    decStream (s.cell .byteIn) s.caps.idxOut s.inPos.toNat s.inLen.toNat = .ok d →
    ∃ t, exec .decRun s = .next t ∧
      (∀ a, t.cell .idxOut a = (d.out[a]?).getD (s.cell .idxOut a)) ∧
      t = { s with
        idxOut := t.idxOut, idxOutLen := BitVec.ofNat 32 d.out.length, result := BitVec.ofNat 32 d.out.length
        decMcs := BitVec.ofNat 8 d.m, inPos := BitVec.ofNat 32 d.stop }

/-- R180: DEC_RUN's faults before the stream, in its order, and then the stream's. -/
def Obligations.DecRunFaultsInOrder : Prop :=
  ∀ s : State, s.err = false →
    (s.upBound = true → exec .decRun s = .next (raiseFault ⟨.unitBusy, 0, s.up.pos⟩ s)) ∧
    (s.upBound = false → s.caps.byteIn < s.inLen.toNat →
      exec .decRun s = .next (raiseFault ⟨.configBadLength, 0, s.inLen.toNat⟩ s)) ∧
    (s.upBound = false → s.inLen.toNat ≤ s.caps.byteIn → ∀ f,
      decStream (s.cell .byteIn) s.caps.idxOut s.inPos.toNat s.inLen.toNat = .error f →
      exec .decRun s = .next (raiseFault f s))

/-- R181, R182: the code-size byte and the initial CLEAR; with a good header the code loop starts from R183's dictionary,
with no output, at the cursor just past the initial CLEAR. A read fault of the first code is the stream's fault (R184). -/
def Obligations.DecoderChecksTheHeader : Prop :=
  ∀ (rd : Nat → Byte) (cap p n : Nat),
    (n ≤ p → decStream rd cap p n = .error ⟨.truncatedStream, p, 0⟩) ∧
    (p < n → ((rd p).toNat < 2 ∨ 8 < (rd p).toNat) →
      decStream rd cap p n = .error ⟨.malformedBadCodeSize, p, (rd p).toNat⟩) ∧
    (∀ m, p < n → (rd p).toNat = m → 2 ≤ m → m ≤ 8 →
      (∀ f, readCode rd (m + 1) (Cursor.openAt (p + 1) n) = .error f → decStream rd cap p n = .error f) ∧
      ∀ r, readCode rd (m + 1) (Cursor.openAt (p + 1) n) = .ok r →
        (r.value ≠ 2 ^ m → decStream rd cap p n = .error ⟨.malformedNoInitialClear, r.start, r.value⟩) ∧
        (r.value = 2 ^ m →
          decStream rd cap p n = decLoop rd cap (decFuel p n)
            { m := m, cb := m + 1, size := 2 ^ m + 2, table := [], prev := none, out := [], u := r.cursor }))

/-- One pass of the code loop (R184). R185, R186: CLEAR re-initialises the dictionary and outputs nothing; EOI ends with the
close check. R187 to R192: a data code runs `Dec.dataCode` at the cursor just past it, and the loop goes on from its answer
or ends with its fault. A read fault ends the loop. -/
def Obligations.DecoderHandlesClearAndEoi : Prop :=
  ∀ (rd : Nat → Byte) (cap fuel : Nat) (d : Dec),
    (∀ f, readCode rd d.cb d.u = .error f → decLoop rd cap (fuel + 1) d = .error f) ∧
    ∀ r : CodeRead, readCode rd d.cb d.u = .ok r →
      (r.value = 2 ^ d.m →
        decLoop rd cap (fuel + 1) d =
          decLoop rd cap fuel
            { d with u := r.cursor, table := [], size := 2 ^ d.m + 2, cb := d.m + 1, prev := none }) ∧
      (r.value = 2 ^ d.m + 1 → ∀ e, closeStream rd r.cursor = .ok e →
        decLoop rd cap (fuel + 1) d = .ok ⟨d.out, e, d.m⟩) ∧
      (r.value = 2 ^ d.m + 1 → ∀ f, closeStream rd r.cursor = .error f →
        decLoop rd cap (fuel + 1) d = .error f) ∧
      (r.value ≠ 2 ^ d.m → r.value ≠ 2 ^ d.m + 1 →
        (∀ d', { d with u := r.cursor }.dataCode cap r.value r.start = .ok d' →
          decLoop rd cap (fuel + 1) d = decLoop rd cap fuel d') ∧
        (∀ f, { d with u := r.cursor }.dataCode cap r.value r.start = .error f →
          decLoop rd cap (fuel + 1) d = .error f))

/-- R184, R187 to R192: what a data code does, case by case, in the order of R184. -/
def Obligations.DataCodesFollowTheCaseRules : Prop :=
  ∀ (cap : Nat) (d : Dec) (c st : Nat), c ≠ 2 ^ d.m → c ≠ 2 ^ d.m + 1 →
    (d.size = 4096 → d.dataCode cap c st = .error ⟨.dictionaryDesync, st, c⟩) ∧
    (d.size ≠ 4096 → (d.size < c ∨ (c = d.size ∧ d.prev = none)) →
      d.dataCode cap c st = .error ⟨.dictionaryDesync, st, c⟩) ∧
    (∀ seq, d.size ≠ 4096 → c < d.size → d.prev = none →
      ((c < 2 ^ d.m ∧ seq = [BitVec.ofNat 8 c]) ∨ (2 ^ d.m < c ∧ d.table.lookup c = some seq)) →
      d.out.length + seq.length ≤ cap →
      d.dataCode cap c st =
        .ok { d with out := d.out ++ seq, prev := some seq, cb := grownWidth d.size d.cb }) ∧
    (∀ x seq p, d.size ≠ 4096 → c < d.size → d.prev = some p →
      ((c < 2 ^ d.m ∧ x :: seq = [BitVec.ofNat 8 c]) ∨ (2 ^ d.m < c ∧ d.table.lookup c = some (x :: seq))) →
      d.out.length + (x :: seq).length ≤ cap →
      d.dataCode cap c st =
        .ok { d with
          out := d.out ++ x :: seq, prev := some (x :: seq), table := (d.size, p ++ [x]) :: d.table
          size := d.size + 1, cb := grownWidth (d.size + 1) d.cb }) ∧
    (∀ seq, d.size ≠ 4096 →
      ((c < d.size ∧ c < 2 ^ d.m ∧ seq = [BitVec.ofNat 8 c]) ∨
       (c < d.size ∧ 2 ^ d.m < c ∧ d.table.lookup c = some seq) ∨
       (c = d.size ∧ ∃ x p, d.prev = some (x :: p) ∧ seq = x :: p ++ [x])) →
      cap < d.out.length + seq.length →
      d.dataCode cap c st = .error ⟨.outputOverflow, st, d.out.length + seq.length⟩) ∧
    (∀ x p, d.size ≠ 4096 → c = d.size → d.prev = some (x :: p) →
      d.out.length + (x :: p ++ [x]).length ≤ cap →
      d.dataCode cap c st =
        .ok { d with
          out := d.out ++ (x :: p ++ [x]), prev := some (x :: p ++ [x])
          table := (d.size, x :: p ++ [x]) :: d.table
          size := d.size + 1, cb := grownWidth (d.size + 1) d.cb })

/-- R43, R196: DEC keeps its ranges from R183's initial state, at any cursor, over every CLEAR and every data code: every
learned code below the size has its sequence, with R196's length bound. So the defaults of assumption 15 are never taken. -/
def Obligations.DecoderKeepsItsRanges : Prop :=
  (∀ (m : Nat) (u : Cursor), 2 ≤ m → m ≤ 8 →
    Dec.Inv { m := m, cb := m + 1, size := 2 ^ m + 2, table := [], prev := none, out := [], u := u }) ∧
  (∀ (d : Dec) (u : Cursor), d.Inv → Dec.Inv { d with u := u } ∧ (Dec.clear { d with u := u }).Inv) ∧
  (∀ (d : Dec) (c : Nat), d.Inv → c < d.size → c ≠ 2 ^ d.m → c ≠ 2 ^ d.m + 1 →
    (c < 2 ^ d.m ∧ d.sequence c = [BitVec.ofNat 8 c]) ∨
      ∃ x seq, d.table.lookup c = some (x :: seq) ∧ d.sequence c = x :: seq) ∧
  ∀ (cap : Nat) (d d' : Dec) (c st : Nat), d.Inv → c ≠ 2 ^ d.m → c ≠ 2 ^ d.m + 1 →
    d.dataCode cap c st = .ok d' →
    d'.Inv ∧ d'.m = d.m ∧
      ∃ s, d'.out = d.out ++ s ∧ d'.prev = some s ∧ 1 ≤ s.length ∧ s.length ≤ 4095 - 2 ^ d.m

/-- R196: the code loop ends by itself: more fuel than unread bits never changes its answer, and the fuel `decStream` gives
is more than the bits the initial CLEAR leaves unread, so more of it would change no answer of `decStream`
(assumption 14). -/
def Obligations.DecoderLoopEndsByItself : Prop :=
  (∀ (rd : Nat → Byte) (cap fuel extra : Nat) (d : Dec), 1 ≤ d.cb → d.u.boff ≤ 8 → d.u.bitsLeft < fuel →
    decLoop rd cap (fuel + extra) d = decLoop rd cap fuel d) ∧
  (∀ (rd : Nat → Byte) (p n w : Nat) (r : CodeRead), p < n →
    readCode rd w (Cursor.openAt (p + 1) n) = .ok r → r.cursor.boff ≤ 8 ∧ r.cursor.bitsLeft < decFuel p n) ∧
  (∀ (rd : Nat → Byte) (cap p n m extra : Nat) (r : CodeRead), p < n → (rd p).toNat = m → 2 ≤ m → m ≤ 8 →
    readCode rd (m + 1) (Cursor.openAt (p + 1) n) = .ok r → r.value = 2 ^ m →
    decLoop rd cap (decFuel p n + extra)
      { m := m, cb := m + 1, size := 2 ^ m + 2, table := [], prev := none, out := [], u := r.cursor } =
    decStream rd cap p n)

/-- R195: DEC_RUN on an encoded stream at IN_POS gives back the encoder's input, its code size, and the cursor just past
the terminator. -/
def Obligations.DecRunInvertsEncRun : Prop :=
  ∀ (s : State) (m : Nat) (xs : List Byte), s.err = false → s.upBound = false →
    s.inLen.toNat ≤ s.caps.byteIn → 2 ≤ m → m ≤ 8 → xs ≠ [] → indicesBelow m xs →
    xs.length ≤ s.caps.idxOut → s.inPos.toNat + (encStream xs m).length ≤ s.inLen.toNat →
    holdsAt (s.cell .byteIn) s.inPos.toNat (encStream xs m) →
    ∃ t, exec .decRun s = .next t ∧
      (∀ a, t.cell .idxOut a = (xs[a]?).getD (s.cell .idxOut a)) ∧
      t = { s with
        idxOut := t.idxOut, idxOutLen := BitVec.ofNat 32 xs.length, result := BitVec.ofNat 32 xs.length
        decMcs := BitVec.ofNat 8 m, inPos := BitVec.ofNat 32 (s.inPos.toNat + (encStream xs m).length) }

/-! ## Control, host access, reset -/

/-- R210: SOFT_RESET, in any state and with any low bits, leaves every register reading 0, the packer empty, the unpacker
unbound and every buffer as it was. The cursor fields are free values (R47, assumption 6). -/
def Obligations.SoftResetClearsEveryRegister : Prop :=
  ∀ (low : Nat) (s : State), ∃ t, exec (.softReset low) s = .next t ∧
    (∀ off, readReg t off = 0) ∧ t.pkBits = [] ∧ t.upBound = false ∧ t.err = false ∧ t.errcode = none ∧
    (∀ sp a, t.cell sp a = s.cell sp a) ∧
    t.caps = s.caps ∧ t.inputs = s.inputs ∧ t.readData = s.readData

/-- R260 to R262: the platform's reset input leaves every register reading 0 and no cell written. -/
def Obligations.HardwareResetClearsEverything : Prop :=
  ∀ (s : State) (rest : List Input), s.inputs = .hardwareReset :: rest →
    ∃ t, step s = .next t ∧ (∀ off, readReg t off = 0) ∧ t.pkBits = [] ∧ t.upBound = false ∧
      t.err = false ∧ (∀ sp a, Memory.lookup (t.buf sp) a = none) ∧ t.inputs = rest ∧ t.caps = s.caps

/-- R22, R212, R231: a host read of each register, and that it changes nothing else (the draw number and the read value are the
model's own, assumptions 3 and 11). -/
def Obligations.HostReadsReturnTheRegisters : Prop :=
  ∀ (s : State) (off : BitVec 8) (rest : List Input), s.inputs = .readReg off :: rest →
    step s = .next { s.takeInput rest with readData := readReg (s.takeInput rest) off } ∧
    readReg s 0x04 = statusWord s ∧ (s.errcode = none → readReg s 0x08 = 0) ∧
    (∀ e, s.errcode = some e → (e, readReg s 0x08) ∈ errorCodeTable) ∧ readReg s 0x0C = s.errOff ∧ readReg s 0x10 = s.errVal ∧
    readReg s 0x14 = s.result ∧ readReg s 0x18 = s.encLen ∧ readReg s 0x1C = s.inLen ∧
    readReg s 0x20 = s.inPos ∧ readReg s 0x24 = s.outLen ∧ readReg s 0x28 = s.idxOutLen ∧
    readReg s 0x2C = s.decMcs.setWidth 32 ∧ readReg s 0x00 = 0 ∧
    (s.pkBits.length < 2 ^ 32 → readReg s 0x30 = BitVec.ofNat 32 s.pkBits.length)

/-- R24: the fields of STATUS. -/
def Obligations.StatusBitsAreTheFields : Prop :=
  ∀ (s : State) (i : Nat),
    (readReg s 0x04).getLsbD 0 = s.err ∧ (readReg s 0x04).getLsbD 1 = s.busy ∧
    (readReg s 0x04).getLsbD 2 = decide (0 < s.pkBits.length) ∧ (readReg s 0x04).getLsbD 3 = s.upBound ∧
    (readReg s 0x04).getLsbD 4 = s.warnClamp ∧ (5 ≤ i → (readReg s 0x04).getLsbD i = false)

/-- R36: a reserved offset reads 0 and ignores writes, without a fault. -/
def Obligations.ReservedOffsetsReadZeroIgnoreWrites : Prop :=
  ∀ (s : State) (off : BitVec 8) (v : Word) (rest : List Input), reservedOffset off → s.busy = false →
    (s.inputs = .readReg off :: rest → step s = .next { s.takeInput rest with readData := 0 }) ∧
    (s.inputs = .writeReg off v :: rest → step s = .next (s.takeInput rest))

/-- R211: a host write stores ENC_LEN, IN_LEN and IN_POS whole, whatever STATUS.ERR is, and is ignored by a read-only
register. -/
def Obligations.HostWritesReachThreeRegisters : Prop :=
  ∀ (s : State) (off : BitVec 8) (v : Word) (rest : List Input),
    s.inputs = .writeReg off v :: rest → s.busy = false → off ≠ 0x00 →
    step s = .next
      (if off = 0x18 then { s.takeInput rest with encLen := v }
       else if off = 0x1C then { s.takeInput rest with inLen := v }
       else if off = 0x20 then { s.takeInput rest with inPos := v }
       else s.takeInput rest)

/-- R60, R70, R71, R266: a host write of an IDX_IN cell, or of a BYTE_IN cell while the unpacker is unbound, changes that
cell alone; a BYTE_IN write while it is bound, and any write of an output cell, is no move of the host. -/
def Obligations.HostCellWritesChangeOneCell : Prop :=
  ∀ (s : State) (sp : Space) (a : Nat) (v : Byte) (rest : List Input),
    s.inputs = .writeCell sp a v :: rest → s.busy = false →
    ((sp = .idxIn ∨ (sp = .byteIn ∧ s.upBound = false)) → a < s.caps.size sp →
      ∃ t, step s = .next t ∧ t = (s.takeInput rest).setBuf sp (t.buf sp) ∧
        ∀ b, Memory.lookup (t.buf sp) b = if b = a then some v else Memory.lookup (s.buf sp) b) ∧
    (sp = .byteIn → s.upBound = true → step s = .refused .byteInWriteWhileBound) ∧
    ((sp = .idxOut ∨ sp = .byteOut) → step s = .refused .outputBufferWrite)

/-- R71, R76: a host read of a cell returns the last value written to it, if one was, and changes nothing. -/
def Obligations.HostCellReadsReturnTheLastWrite : Prop :=
  ∀ (s : State) (sp : Space) (a : Nat) (rest : List Input),
    s.inputs = .readCell sp a :: rest → a < s.caps.size sp →
    ∃ t, step s = .next t ∧ t = { s.takeInput rest with readData := t.readData } ∧
      ∀ v, Memory.lookup (s.buf sp) a = some v → t.readData = v.setWidth 32

/-- R47, R261: the reset state's registers and units, and that no cell has been written. -/
def Obligations.ResetStateIsAsTheSpecSays : Prop :=
  (∀ off, readReg State.reset off = 0) ∧ State.reset.pkBits = [] ∧ State.reset.upBound = false ∧
  State.reset.err = false ∧ State.reset.errcode = none ∧
  (∀ sp a, Memory.lookup (State.reset.buf sp) a = none)

/-! ## Invariants and frames -/

/-- The invariant holds at reset. -/
def Obligations.InvariantHoldsAtReset : Prop := State.reset.Inv

/-- Every step keeps the invariant: canonical memories within their capacities, BUSY 0, a consistent latch, legal lengths,
DEC_MCS and packer, and a bound cursor in its ranges. -/
def Obligations.EveryStepKeepsTheInvariant : Prop :=
  ∀ s t : State, s.Inv → step s = .next t → t.Inv

/-- The frame of the commands that store nothing: PK_OPEN and PK_ADD change `PK.bits`, UP_OPEN the UP record, UP_READ the
cursor and RESULT, UP_CLOSE IN_POS, RESULT and `UP.bound`; beside these only the error latch, and no cell. -/
def Obligations.FrameOfNonStoringCommands : Prop :=
  ∀ s t : State,
    (exec .pkOpen s = .next t → t = { s.withLatchOf t with pkBits := t.pkBits } ∧ ∀ sp a, t.cell sp a = s.cell sp a) ∧
    (∀ w v, exec (.pkAdd w v) s = .next t →
      t = { s.withLatchOf t with pkBits := t.pkBits } ∧ ∀ sp a, t.cell sp a = s.cell sp a) ∧
    (exec .upOpen s = .next t →
      t = { s.withLatchOf t with upBound := t.upBound, up := t.up } ∧ ∀ sp a, t.cell sp a = s.cell sp a) ∧
    (∀ w, exec (.upRead w) s = .next t →
      t = { s.withLatchOf t with up := t.up, result := t.result } ∧ ∀ sp a, t.cell sp a = s.cell sp a) ∧
    (exec .upClose s = .next t →
      t = { s.withLatchOf t with inPos := t.inPos, result := t.result, upBound := t.upBound } ∧
        ∀ sp a, t.cell sp a = s.cell sp a)

/-- The frame of the commands that store (R62, R64): PK_FINISH stores to the cells of its frame, ENC_RUN to those of its
stream, DEC_RUN to those of its output, each from cell 0; every other cell reads as before, and beside the registers named
only the error latch changes. -/
def Obligations.FrameOfStoringCommands : Prop :=
  ∀ s t : State,
    (∀ p, exec (.pkFinish p) s = .next t →
      t = { s.withLatchOf t with pkBits := t.pkBits, byteOut := t.byteOut, outLen := t.outLen, result := t.result } ∧
      ∀ sp a, (sp = .byteOut → (frame (BitVec.ofNat 8 p) s.pkBits).length ≤ a) → t.cell sp a = s.cell sp a) ∧
    (∀ mcs, exec (.encRun mcs) s = .next t →
      t = { s.withLatchOf t with
        byteOut := t.byteOut, outLen := t.outLen, result := t.result, warnClamp := t.warnClamp } ∧
      ∀ sp a, (sp = .byteOut → (encStream (encInput s) (max mcs 2)).length ≤ a) → t.cell sp a = s.cell sp a) ∧
    (exec .decRun s = .next t →
      t = { s.withLatchOf t with
        idxOut := t.idxOut, idxOutLen := t.idxOutLen, result := t.result, decMcs := t.decMcs, inPos := t.inPos } ∧
      ∀ sp a,
        (sp = .idxOut → ∀ d,
          decStream (s.cell .byteIn) s.caps.idxOut s.inPos.toNat s.inLen.toNat = .ok d → d.out.length ≤ a) →
        t.cell sp a = s.cell sp a)

/-- R28: only a successful UP_READ, UP_CLOSE, PK_FINISH, ENC_RUN or DEC_RUN, or SOFT_RESET, changes RESULT. -/
def Obligations.OnlyResultWritersChangeResult : Prop :=
  ∀ (i : Instr) (s t : State), exec i s = .next t → t.result ≠ s.result →
    (s.err = false ∧ t.err = false ∧
      ((∃ w, i = .upRead w) ∨ i = .upClose ∨ (∃ p, i = .pkFinish p) ∨ (∃ m, i = .encRun m) ∨ i = .decRun)) ∨
    ∃ low, i = .softReset low

/-- R29, R30, R61, R63: no command writes an input buffer, and none but SOFT_RESET writes ENC_LEN or IN_LEN. -/
def Obligations.CommandsLeaveTheInputsAlone : Prop :=
  ∀ (i : Instr) (s t : State), exec i s = .next t →
    (∀ a, t.cell .idxIn a = s.cell .idxIn a) ∧ (∀ a, t.cell .byteIn a = s.cell .byteIn a) ∧
    t.caps = s.caps ∧ t.inputs = s.inputs ∧
    ((∀ low, i ≠ .softReset low) → t.encLen = s.encLen ∧ t.inLen = s.inLen)

/-- R46, R47, U17: what the unspecified cursor fields of an unbound unpacker hold cannot be observed: no command tells two
states apart that differ in them alone, and neither does a register read. -/
def Obligations.UnboundCursorIsUnobservable : Prop :=
  ∀ (i : Instr) (s s' t t' : State), s.sameButUnboundCursor s' →
    exec i s = .next t → exec i s' = .next t' →
    (t = t' ∨ t.sameButUnboundCursor t') ∧ ∀ off, readReg t off = readReg t' off
end

