-- ==== Sys2Proof/Laws/Memory.lean ====
section
/-! SUPPORT. The laws of buffer memory: read after write, and that every write keeps the canonical form. -/

namespace Sys2Proof.Machine

@[simp] theorem lookup_nil (a : Nat) : Memory.lookup [] a = none := rfl

/-- Read after write, at the written cell and at every other. -/
theorem lookup_write (m : Memory) (a b : Nat) (v : Byte) :
    Memory.lookup (Memory.write m a v) b = if b = a then some v else Memory.lookup m b := by
  induction m with
  | nil => simp [Memory.write, Memory.lookup]
  | cons c rest ih =>
    obtain ⟨k, w⟩ := c
    simp only [Memory.write]
    split
    · simp [Memory.lookup]
    · split
      · subst_vars; simp only [Memory.lookup]; split <;> simp_all
      · simp only [Memory.lookup, ih]
        split
        · rw [if_neg (by omega)]
        · rfl

/-- What a sequence of writes leaves in every cell. -/
theorem lookup_writeSeq (m : Memory) (base : Nat) (bytes : List Byte) (a : Nat) :
    Memory.lookup (Memory.writeSeq m base bytes) a =
      if base ≤ a ∧ a < base + bytes.length then bytes[a - base]? else Memory.lookup m a := by
  induction bytes generalizing m base with
  | nil => simp only [Memory.writeSeq, List.length_nil]; rw [if_neg (by omega)]
  | cons v rest ih =>
    rw [Memory.writeSeq, ih, lookup_write]
    by_cases h : a = base
    · subst h; simp
    · by_cases h1 : base + 1 ≤ a ∧ a < base + 1 + rest.length
      · have h2 : base ≤ a ∧ a < base + (v :: rest).length := by simp; omega
        obtain ⟨k, rfl⟩ : ∃ k, a = base + 1 + k := ⟨a - (base + 1), by omega⟩
        rw [if_pos h1, if_pos h2]
        have e1 : base + 1 + k - (base + 1) = k := by omega
        have e2 : base + 1 + k - base = k + 1 := by omega
        simp [e1, e2]
      · have h2 : ¬(base ≤ a ∧ a < base + (v :: rest).length) := by simp; omega
        rw [if_neg h1, if_neg h2, if_neg h]

/-- The cells a write lists are the old ones and the written one. -/
theorem mem_write {m : Memory} {a : Nat} {v : Byte} {c : Host.Cell} (h : c ∈ Memory.write m a v) :
    c = (a, v) ∨ c ∈ m := by
  induction m with
  | nil => simpa [Memory.write] using h
  | cons d rest ih =>
    obtain ⟨k, w⟩ := d
    simp only [Memory.write] at h
    split at h
    · simpa using h
    · split at h
      · simp only [List.mem_cons] at h ⊢; tauto
      · simp only [List.mem_cons] at h ⊢
        rcases h with h | h
        · exact .inr (.inl h)
        · rcases ih h with h | h <;> tauto

/-- A write keeps the canonical form. -/
theorem write_wf {m : Memory} (h : Memory.wf m) (a : Nat) (v : Byte) : Memory.wf (Memory.write m a v) := by
  induction m with
  | nil => simp [Memory.write, Memory.wf]
  | cons d rest ih =>
    obtain ⟨k, w⟩ := d
    rw [Memory.wf, List.pairwise_cons] at h
    simp only [Memory.write]
    split
    · rename_i hlt
      rw [Memory.wf, List.pairwise_cons, List.pairwise_cons]
      refine ⟨?_, h⟩
      intro c hc
      rcases List.mem_cons.1 hc with rfl | hc
      · exact hlt
      · exact Nat.lt_trans hlt (h.1 c hc)
    · split
      · subst_vars
        rw [Memory.wf, List.pairwise_cons]
        exact ⟨h.1, h.2⟩
      · rw [Memory.wf, List.pairwise_cons]
        refine ⟨?_, ih h.2⟩
        intro c hc
        rcases mem_write hc with rfl | hc
        · simp; omega
        · exact h.1 c hc

/-- A sequence of writes keeps the canonical form. -/
theorem writeSeq_wf {m : Memory} (h : Memory.wf m) (base : Nat) (bytes : List Byte) :
    Memory.wf (Memory.writeSeq m base bytes) := by
  induction bytes generalizing m base with
  | nil => exact h
  | cons v rest ih => exact ih (write_wf h base v) _

/-- A sequence of writes below a bound lists only cells below it. -/
theorem writeSeq_below {m : Memory} {cap : Nat} (h : ∀ c ∈ m, c.1 < cap) (base : Nat) (bytes : List Byte)
    (hb : base + bytes.length ≤ cap) : ∀ c ∈ Memory.writeSeq m base bytes, c.1 < cap := by
  induction bytes generalizing m base with
  | nil => exact h
  | cons v rest ih =>
    simp only [List.length_cons] at hb
    refine ih (fun c hc => ?_) (base + 1) (by omega)
    rcases mem_write hc with rfl | hc
    · simp; omega
    · exact h c hc

end Sys2Proof.Machine
end

