-- ==== Sys2Proof/Laws/State.lean ====
section
/-! SUPPORT. One lemma per field per named update of State, so that no later proof unfolds a record update. -/

namespace Sys2Proof.Machine

/-! ### setBusy -/

@[simp] theorem setBusy_err (s : State) (b : Bool) : (s.setBusy b).err = s.err := rfl
@[simp] theorem setBusy_busy (s : State) (b : Bool) : (s.setBusy b).busy = b := rfl
@[simp] theorem setBusy_warnClamp (s : State) (b : Bool) : (s.setBusy b).warnClamp = s.warnClamp := rfl
@[simp] theorem setBusy_errcode (s : State) (b : Bool) : (s.setBusy b).errcode = s.errcode := rfl
@[simp] theorem setBusy_errOff (s : State) (b : Bool) : (s.setBusy b).errOff = s.errOff := rfl
@[simp] theorem setBusy_errVal (s : State) (b : Bool) : (s.setBusy b).errVal = s.errVal := rfl
@[simp] theorem setBusy_result (s : State) (b : Bool) : (s.setBusy b).result = s.result := rfl
@[simp] theorem setBusy_encLen (s : State) (b : Bool) : (s.setBusy b).encLen = s.encLen := rfl
@[simp] theorem setBusy_inLen (s : State) (b : Bool) : (s.setBusy b).inLen = s.inLen := rfl
@[simp] theorem setBusy_inPos (s : State) (b : Bool) : (s.setBusy b).inPos = s.inPos := rfl
@[simp] theorem setBusy_outLen (s : State) (b : Bool) : (s.setBusy b).outLen = s.outLen := rfl
@[simp] theorem setBusy_idxOutLen (s : State) (b : Bool) : (s.setBusy b).idxOutLen = s.idxOutLen := rfl
@[simp] theorem setBusy_decMcs (s : State) (b : Bool) : (s.setBusy b).decMcs = s.decMcs := rfl
@[simp] theorem setBusy_pkBits (s : State) (b : Bool) : (s.setBusy b).pkBits = s.pkBits := rfl
@[simp] theorem setBusy_upBound (s : State) (b : Bool) : (s.setBusy b).upBound = s.upBound := rfl
@[simp] theorem setBusy_up (s : State) (b : Bool) : (s.setBusy b).up = s.up := rfl
@[simp] theorem setBusy_idxIn (s : State) (b : Bool) : (s.setBusy b).idxIn = s.idxIn := rfl
@[simp] theorem setBusy_idxOut (s : State) (b : Bool) : (s.setBusy b).idxOut = s.idxOut := rfl
@[simp] theorem setBusy_byteIn (s : State) (b : Bool) : (s.setBusy b).byteIn = s.byteIn := rfl
@[simp] theorem setBusy_byteOut (s : State) (b : Bool) : (s.setBusy b).byteOut = s.byteOut := rfl
@[simp] theorem setBusy_caps (s : State) (b : Bool) : (s.setBusy b).caps = s.caps := rfl
@[simp] theorem setBusy_inputs (s : State) (b : Bool) : (s.setBusy b).inputs = s.inputs := rfl
@[simp] theorem setBusy_readData (s : State) (b : Bool) : (s.setBusy b).readData = s.readData := rfl
@[simp] theorem setBusy_draw (s : State) (b : Bool) : (s.setBusy b).draw = s.draw := rfl

/-! ### takeInput -/

@[simp] theorem takeInput_err (s : State) (r : List Input) : (s.takeInput r).err = s.err := rfl
@[simp] theorem takeInput_busy (s : State) (r : List Input) : (s.takeInput r).busy = s.busy := rfl
@[simp] theorem takeInput_warnClamp (s : State) (r : List Input) : (s.takeInput r).warnClamp = s.warnClamp := rfl
@[simp] theorem takeInput_errcode (s : State) (r : List Input) : (s.takeInput r).errcode = s.errcode := rfl
@[simp] theorem takeInput_errOff (s : State) (r : List Input) : (s.takeInput r).errOff = s.errOff := rfl
@[simp] theorem takeInput_errVal (s : State) (r : List Input) : (s.takeInput r).errVal = s.errVal := rfl
@[simp] theorem takeInput_result (s : State) (r : List Input) : (s.takeInput r).result = s.result := rfl
@[simp] theorem takeInput_encLen (s : State) (r : List Input) : (s.takeInput r).encLen = s.encLen := rfl
@[simp] theorem takeInput_inLen (s : State) (r : List Input) : (s.takeInput r).inLen = s.inLen := rfl
@[simp] theorem takeInput_inPos (s : State) (r : List Input) : (s.takeInput r).inPos = s.inPos := rfl
@[simp] theorem takeInput_outLen (s : State) (r : List Input) : (s.takeInput r).outLen = s.outLen := rfl
@[simp] theorem takeInput_idxOutLen (s : State) (r : List Input) : (s.takeInput r).idxOutLen = s.idxOutLen := rfl
@[simp] theorem takeInput_decMcs (s : State) (r : List Input) : (s.takeInput r).decMcs = s.decMcs := rfl
@[simp] theorem takeInput_pkBits (s : State) (r : List Input) : (s.takeInput r).pkBits = s.pkBits := rfl
@[simp] theorem takeInput_upBound (s : State) (r : List Input) : (s.takeInput r).upBound = s.upBound := rfl
@[simp] theorem takeInput_up (s : State) (r : List Input) : (s.takeInput r).up = s.up := rfl
@[simp] theorem takeInput_idxIn (s : State) (r : List Input) : (s.takeInput r).idxIn = s.idxIn := rfl
@[simp] theorem takeInput_idxOut (s : State) (r : List Input) : (s.takeInput r).idxOut = s.idxOut := rfl
@[simp] theorem takeInput_byteIn (s : State) (r : List Input) : (s.takeInput r).byteIn = s.byteIn := rfl
@[simp] theorem takeInput_byteOut (s : State) (r : List Input) : (s.takeInput r).byteOut = s.byteOut := rfl
@[simp] theorem takeInput_caps (s : State) (r : List Input) : (s.takeInput r).caps = s.caps := rfl
@[simp] theorem takeInput_inputs (s : State) (r : List Input) : (s.takeInput r).inputs = r := rfl
@[simp] theorem takeInput_readData (s : State) (r : List Input) : (s.takeInput r).readData = s.readData := rfl
@[simp] theorem takeInput_draw (s : State) (r : List Input) : (s.takeInput r).draw = s.draw + 1 := rfl

/-! ### setBuf -/

@[simp] theorem setBuf_err (s : State) (sp : Space) (m : Memory) : (s.setBuf sp m).err = s.err := by cases sp <;> rfl
@[simp] theorem setBuf_busy (s : State) (sp : Space) (m : Memory) : (s.setBuf sp m).busy = s.busy := by cases sp <;> rfl
@[simp] theorem setBuf_warnClamp (s : State) (sp : Space) (m : Memory) : (s.setBuf sp m).warnClamp = s.warnClamp := by cases sp <;> rfl
@[simp] theorem setBuf_errcode (s : State) (sp : Space) (m : Memory) : (s.setBuf sp m).errcode = s.errcode := by cases sp <;> rfl
@[simp] theorem setBuf_errOff (s : State) (sp : Space) (m : Memory) : (s.setBuf sp m).errOff = s.errOff := by cases sp <;> rfl
@[simp] theorem setBuf_errVal (s : State) (sp : Space) (m : Memory) : (s.setBuf sp m).errVal = s.errVal := by cases sp <;> rfl
@[simp] theorem setBuf_result (s : State) (sp : Space) (m : Memory) : (s.setBuf sp m).result = s.result := by cases sp <;> rfl
@[simp] theorem setBuf_encLen (s : State) (sp : Space) (m : Memory) : (s.setBuf sp m).encLen = s.encLen := by cases sp <;> rfl
@[simp] theorem setBuf_inLen (s : State) (sp : Space) (m : Memory) : (s.setBuf sp m).inLen = s.inLen := by cases sp <;> rfl
@[simp] theorem setBuf_inPos (s : State) (sp : Space) (m : Memory) : (s.setBuf sp m).inPos = s.inPos := by cases sp <;> rfl
@[simp] theorem setBuf_outLen (s : State) (sp : Space) (m : Memory) : (s.setBuf sp m).outLen = s.outLen := by cases sp <;> rfl
@[simp] theorem setBuf_idxOutLen (s : State) (sp : Space) (m : Memory) : (s.setBuf sp m).idxOutLen = s.idxOutLen := by cases sp <;> rfl
@[simp] theorem setBuf_decMcs (s : State) (sp : Space) (m : Memory) : (s.setBuf sp m).decMcs = s.decMcs := by cases sp <;> rfl
@[simp] theorem setBuf_pkBits (s : State) (sp : Space) (m : Memory) : (s.setBuf sp m).pkBits = s.pkBits := by cases sp <;> rfl
@[simp] theorem setBuf_upBound (s : State) (sp : Space) (m : Memory) : (s.setBuf sp m).upBound = s.upBound := by cases sp <;> rfl
@[simp] theorem setBuf_up (s : State) (sp : Space) (m : Memory) : (s.setBuf sp m).up = s.up := by cases sp <;> rfl
@[simp] theorem setBuf_caps (s : State) (sp : Space) (m : Memory) : (s.setBuf sp m).caps = s.caps := by cases sp <;> rfl
@[simp] theorem setBuf_inputs (s : State) (sp : Space) (m : Memory) : (s.setBuf sp m).inputs = s.inputs := by cases sp <;> rfl
@[simp] theorem setBuf_readData (s : State) (sp : Space) (m : Memory) : (s.setBuf sp m).readData = s.readData := by cases sp <;> rfl
@[simp] theorem setBuf_draw (s : State) (sp : Space) (m : Memory) : (s.setBuf sp m).draw = s.draw := by cases sp <;> rfl

/-! ### emitBytes -/

@[simp] theorem emitBytes_err (b : List Byte) (s : State) : (emitBytes b s).err = s.err := rfl
@[simp] theorem emitBytes_busy (b : List Byte) (s : State) : (emitBytes b s).busy = s.busy := rfl
@[simp] theorem emitBytes_warnClamp (b : List Byte) (s : State) : (emitBytes b s).warnClamp = s.warnClamp := rfl
@[simp] theorem emitBytes_errcode (b : List Byte) (s : State) : (emitBytes b s).errcode = s.errcode := rfl
@[simp] theorem emitBytes_errOff (b : List Byte) (s : State) : (emitBytes b s).errOff = s.errOff := rfl
@[simp] theorem emitBytes_errVal (b : List Byte) (s : State) : (emitBytes b s).errVal = s.errVal := rfl
@[simp] theorem emitBytes_result (b : List Byte) (s : State) : (emitBytes b s).result = BitVec.ofNat 32 b.length := rfl
@[simp] theorem emitBytes_encLen (b : List Byte) (s : State) : (emitBytes b s).encLen = s.encLen := rfl
@[simp] theorem emitBytes_inLen (b : List Byte) (s : State) : (emitBytes b s).inLen = s.inLen := rfl
@[simp] theorem emitBytes_inPos (b : List Byte) (s : State) : (emitBytes b s).inPos = s.inPos := rfl
@[simp] theorem emitBytes_outLen (b : List Byte) (s : State) : (emitBytes b s).outLen = BitVec.ofNat 32 b.length := rfl
@[simp] theorem emitBytes_idxOutLen (b : List Byte) (s : State) : (emitBytes b s).idxOutLen = s.idxOutLen := rfl
@[simp] theorem emitBytes_decMcs (b : List Byte) (s : State) : (emitBytes b s).decMcs = s.decMcs := rfl
@[simp] theorem emitBytes_pkBits (b : List Byte) (s : State) : (emitBytes b s).pkBits = s.pkBits := rfl
@[simp] theorem emitBytes_upBound (b : List Byte) (s : State) : (emitBytes b s).upBound = s.upBound := rfl
@[simp] theorem emitBytes_up (b : List Byte) (s : State) : (emitBytes b s).up = s.up := rfl
@[simp] theorem emitBytes_idxIn (b : List Byte) (s : State) : (emitBytes b s).idxIn = s.idxIn := rfl
@[simp] theorem emitBytes_idxOut (b : List Byte) (s : State) : (emitBytes b s).idxOut = s.idxOut := rfl
@[simp] theorem emitBytes_byteIn (b : List Byte) (s : State) : (emitBytes b s).byteIn = s.byteIn := rfl
@[simp] theorem emitBytes_byteOut (b : List Byte) (s : State) : (emitBytes b s).byteOut = Memory.writeSeq s.byteOut 0 b := rfl
@[simp] theorem emitBytes_caps (b : List Byte) (s : State) : (emitBytes b s).caps = s.caps := rfl
@[simp] theorem emitBytes_inputs (b : List Byte) (s : State) : (emitBytes b s).inputs = s.inputs := rfl
@[simp] theorem emitBytes_readData (b : List Byte) (s : State) : (emitBytes b s).readData = s.readData := rfl
@[simp] theorem emitBytes_draw (b : List Byte) (s : State) : (emitBytes b s).draw = s.draw := rfl

/-! ### resetRegisters -/

@[simp] theorem resetRegisters_err (s : State) : (resetRegisters s).err = false := rfl
@[simp] theorem resetRegisters_busy (s : State) : (resetRegisters s).busy = false := rfl
@[simp] theorem resetRegisters_warnClamp (s : State) : (resetRegisters s).warnClamp = false := rfl
@[simp] theorem resetRegisters_errcode (s : State) : (resetRegisters s).errcode = none := rfl
@[simp] theorem resetRegisters_errOff (s : State) : (resetRegisters s).errOff = 0 := rfl
@[simp] theorem resetRegisters_errVal (s : State) : (resetRegisters s).errVal = 0 := rfl
@[simp] theorem resetRegisters_result (s : State) : (resetRegisters s).result = 0 := rfl
@[simp] theorem resetRegisters_encLen (s : State) : (resetRegisters s).encLen = 0 := rfl
@[simp] theorem resetRegisters_inLen (s : State) : (resetRegisters s).inLen = 0 := rfl
@[simp] theorem resetRegisters_inPos (s : State) : (resetRegisters s).inPos = 0 := rfl
@[simp] theorem resetRegisters_outLen (s : State) : (resetRegisters s).outLen = 0 := rfl
@[simp] theorem resetRegisters_idxOutLen (s : State) : (resetRegisters s).idxOutLen = 0 := rfl
@[simp] theorem resetRegisters_decMcs (s : State) : (resetRegisters s).decMcs = 0 := rfl
@[simp] theorem resetRegisters_pkBits (s : State) : (resetRegisters s).pkBits = [] := rfl
@[simp] theorem resetRegisters_upBound (s : State) : (resetRegisters s).upBound = false := rfl
@[simp] theorem resetRegisters_up (s : State) : (resetRegisters s).up = freeCursor s.draw := rfl
@[simp] theorem resetRegisters_idxIn (s : State) : (resetRegisters s).idxIn = s.idxIn := rfl
@[simp] theorem resetRegisters_idxOut (s : State) : (resetRegisters s).idxOut = s.idxOut := rfl
@[simp] theorem resetRegisters_byteIn (s : State) : (resetRegisters s).byteIn = s.byteIn := rfl
@[simp] theorem resetRegisters_byteOut (s : State) : (resetRegisters s).byteOut = s.byteOut := rfl
@[simp] theorem resetRegisters_caps (s : State) : (resetRegisters s).caps = s.caps := rfl
@[simp] theorem resetRegisters_inputs (s : State) : (resetRegisters s).inputs = s.inputs := rfl
@[simp] theorem resetRegisters_readData (s : State) : (resetRegisters s).readData = s.readData := rfl
@[simp] theorem resetRegisters_draw (s : State) : (resetRegisters s).draw = s.draw := rfl

/-! ### hardwareReset -/

@[simp] theorem hardwareReset_err (s : State) : (hardwareReset s).err = false := rfl
@[simp] theorem hardwareReset_busy (s : State) : (hardwareReset s).busy = false := rfl
@[simp] theorem hardwareReset_warnClamp (s : State) : (hardwareReset s).warnClamp = false := rfl
@[simp] theorem hardwareReset_errcode (s : State) : (hardwareReset s).errcode = none := rfl
@[simp] theorem hardwareReset_errOff (s : State) : (hardwareReset s).errOff = 0 := rfl
@[simp] theorem hardwareReset_errVal (s : State) : (hardwareReset s).errVal = 0 := rfl
@[simp] theorem hardwareReset_result (s : State) : (hardwareReset s).result = 0 := rfl
@[simp] theorem hardwareReset_encLen (s : State) : (hardwareReset s).encLen = 0 := rfl
@[simp] theorem hardwareReset_inLen (s : State) : (hardwareReset s).inLen = 0 := rfl
@[simp] theorem hardwareReset_inPos (s : State) : (hardwareReset s).inPos = 0 := rfl
@[simp] theorem hardwareReset_outLen (s : State) : (hardwareReset s).outLen = 0 := rfl
@[simp] theorem hardwareReset_idxOutLen (s : State) : (hardwareReset s).idxOutLen = 0 := rfl
@[simp] theorem hardwareReset_decMcs (s : State) : (hardwareReset s).decMcs = 0 := rfl
@[simp] theorem hardwareReset_pkBits (s : State) : (hardwareReset s).pkBits = [] := rfl
@[simp] theorem hardwareReset_upBound (s : State) : (hardwareReset s).upBound = false := rfl
@[simp] theorem hardwareReset_up (s : State) : (hardwareReset s).up = freeCursor s.draw := rfl
@[simp] theorem hardwareReset_idxIn (s : State) : (hardwareReset s).idxIn = [] := rfl
@[simp] theorem hardwareReset_idxOut (s : State) : (hardwareReset s).idxOut = [] := rfl
@[simp] theorem hardwareReset_byteIn (s : State) : (hardwareReset s).byteIn = [] := rfl
@[simp] theorem hardwareReset_byteOut (s : State) : (hardwareReset s).byteOut = [] := rfl
@[simp] theorem hardwareReset_caps (s : State) : (hardwareReset s).caps = s.caps := rfl
@[simp] theorem hardwareReset_inputs (s : State) : (hardwareReset s).inputs = s.inputs := rfl
@[simp] theorem hardwareReset_readData (s : State) : (hardwareReset s).readData = s.readData := rfl
@[simp] theorem hardwareReset_draw (s : State) : (hardwareReset s).draw = s.draw := rfl

/-! ### raiseFault: everything but the latch -/

@[simp] theorem raiseFault_busy (f : BlockFault) (s : State) : (raiseFault f s).busy = s.busy := by unfold raiseFault; split <;> rfl
@[simp] theorem raiseFault_warnClamp (f : BlockFault) (s : State) : (raiseFault f s).warnClamp = s.warnClamp := by unfold raiseFault; split <;> rfl
@[simp] theorem raiseFault_result (f : BlockFault) (s : State) : (raiseFault f s).result = s.result := by unfold raiseFault; split <;> rfl
@[simp] theorem raiseFault_encLen (f : BlockFault) (s : State) : (raiseFault f s).encLen = s.encLen := by unfold raiseFault; split <;> rfl
@[simp] theorem raiseFault_inLen (f : BlockFault) (s : State) : (raiseFault f s).inLen = s.inLen := by unfold raiseFault; split <;> rfl
@[simp] theorem raiseFault_inPos (f : BlockFault) (s : State) : (raiseFault f s).inPos = s.inPos := by unfold raiseFault; split <;> rfl
@[simp] theorem raiseFault_outLen (f : BlockFault) (s : State) : (raiseFault f s).outLen = s.outLen := by unfold raiseFault; split <;> rfl
@[simp] theorem raiseFault_idxOutLen (f : BlockFault) (s : State) : (raiseFault f s).idxOutLen = s.idxOutLen := by unfold raiseFault; split <;> rfl
@[simp] theorem raiseFault_decMcs (f : BlockFault) (s : State) : (raiseFault f s).decMcs = s.decMcs := by unfold raiseFault; split <;> rfl
@[simp] theorem raiseFault_pkBits (f : BlockFault) (s : State) : (raiseFault f s).pkBits = s.pkBits := by unfold raiseFault; split <;> rfl
@[simp] theorem raiseFault_upBound (f : BlockFault) (s : State) : (raiseFault f s).upBound = s.upBound := by unfold raiseFault; split <;> rfl
@[simp] theorem raiseFault_up (f : BlockFault) (s : State) : (raiseFault f s).up = s.up := by unfold raiseFault; split <;> rfl
@[simp] theorem raiseFault_idxIn (f : BlockFault) (s : State) : (raiseFault f s).idxIn = s.idxIn := by unfold raiseFault; split <;> rfl
@[simp] theorem raiseFault_idxOut (f : BlockFault) (s : State) : (raiseFault f s).idxOut = s.idxOut := by unfold raiseFault; split <;> rfl
@[simp] theorem raiseFault_byteIn (f : BlockFault) (s : State) : (raiseFault f s).byteIn = s.byteIn := by unfold raiseFault; split <;> rfl
@[simp] theorem raiseFault_byteOut (f : BlockFault) (s : State) : (raiseFault f s).byteOut = s.byteOut := by unfold raiseFault; split <;> rfl
@[simp] theorem raiseFault_caps (f : BlockFault) (s : State) : (raiseFault f s).caps = s.caps := by unfold raiseFault; split <;> rfl
@[simp] theorem raiseFault_inputs (f : BlockFault) (s : State) : (raiseFault f s).inputs = s.inputs := by unfold raiseFault; split <;> rfl
@[simp] theorem raiseFault_readData (f : BlockFault) (s : State) : (raiseFault f s).readData = s.readData := by unfold raiseFault; split <;> rfl
@[simp] theorem raiseFault_draw (f : BlockFault) (s : State) : (raiseFault f s).draw = s.draw := by unfold raiseFault; split <;> rfl

/-! ### writeReg: everything but the three writable registers -/

@[simp] theorem writeReg_err (o : BitVec 8) (v : Word) (s : State) : (writeReg o v s).err = s.err := by unfold writeReg; split <;> rfl
@[simp] theorem writeReg_busy (o : BitVec 8) (v : Word) (s : State) : (writeReg o v s).busy = s.busy := by unfold writeReg; split <;> rfl
@[simp] theorem writeReg_warnClamp (o : BitVec 8) (v : Word) (s : State) : (writeReg o v s).warnClamp = s.warnClamp := by unfold writeReg; split <;> rfl
@[simp] theorem writeReg_errcode (o : BitVec 8) (v : Word) (s : State) : (writeReg o v s).errcode = s.errcode := by unfold writeReg; split <;> rfl
@[simp] theorem writeReg_errOff (o : BitVec 8) (v : Word) (s : State) : (writeReg o v s).errOff = s.errOff := by unfold writeReg; split <;> rfl
@[simp] theorem writeReg_errVal (o : BitVec 8) (v : Word) (s : State) : (writeReg o v s).errVal = s.errVal := by unfold writeReg; split <;> rfl
@[simp] theorem writeReg_result (o : BitVec 8) (v : Word) (s : State) : (writeReg o v s).result = s.result := by unfold writeReg; split <;> rfl
@[simp] theorem writeReg_outLen (o : BitVec 8) (v : Word) (s : State) : (writeReg o v s).outLen = s.outLen := by unfold writeReg; split <;> rfl
@[simp] theorem writeReg_idxOutLen (o : BitVec 8) (v : Word) (s : State) : (writeReg o v s).idxOutLen = s.idxOutLen := by unfold writeReg; split <;> rfl
@[simp] theorem writeReg_decMcs (o : BitVec 8) (v : Word) (s : State) : (writeReg o v s).decMcs = s.decMcs := by unfold writeReg; split <;> rfl
@[simp] theorem writeReg_pkBits (o : BitVec 8) (v : Word) (s : State) : (writeReg o v s).pkBits = s.pkBits := by unfold writeReg; split <;> rfl
@[simp] theorem writeReg_upBound (o : BitVec 8) (v : Word) (s : State) : (writeReg o v s).upBound = s.upBound := by unfold writeReg; split <;> rfl
@[simp] theorem writeReg_up (o : BitVec 8) (v : Word) (s : State) : (writeReg o v s).up = s.up := by unfold writeReg; split <;> rfl
@[simp] theorem writeReg_idxIn (o : BitVec 8) (v : Word) (s : State) : (writeReg o v s).idxIn = s.idxIn := by unfold writeReg; split <;> rfl
@[simp] theorem writeReg_idxOut (o : BitVec 8) (v : Word) (s : State) : (writeReg o v s).idxOut = s.idxOut := by unfold writeReg; split <;> rfl
@[simp] theorem writeReg_byteIn (o : BitVec 8) (v : Word) (s : State) : (writeReg o v s).byteIn = s.byteIn := by unfold writeReg; split <;> rfl
@[simp] theorem writeReg_byteOut (o : BitVec 8) (v : Word) (s : State) : (writeReg o v s).byteOut = s.byteOut := by unfold writeReg; split <;> rfl
@[simp] theorem writeReg_caps (o : BitVec 8) (v : Word) (s : State) : (writeReg o v s).caps = s.caps := by unfold writeReg; split <;> rfl
@[simp] theorem writeReg_inputs (o : BitVec 8) (v : Word) (s : State) : (writeReg o v s).inputs = s.inputs := by unfold writeReg; split <;> rfl
@[simp] theorem writeReg_readData (o : BitVec 8) (v : Word) (s : State) : (writeReg o v s).readData = s.readData := by unfold writeReg; split <;> rfl
@[simp] theorem writeReg_draw (o : BitVec 8) (v : Word) (s : State) : (writeReg o v s).draw = s.draw := by unfold writeReg; split <;> rfl

/-! ### withFetchWord -/

@[simp] theorem withFetchWord_err (s : State) (n w : Nat) : (s.withFetchWord n w).err = s.err := rfl
@[simp] theorem withFetchWord_busy (s : State) (n w : Nat) : (s.withFetchWord n w).busy = s.busy := rfl
@[simp] theorem withFetchWord_warnClamp (s : State) (n w : Nat) : (s.withFetchWord n w).warnClamp = s.warnClamp := rfl
@[simp] theorem withFetchWord_errcode (s : State) (n w : Nat) : (s.withFetchWord n w).errcode = s.errcode := rfl
@[simp] theorem withFetchWord_errOff (s : State) (n w : Nat) : (s.withFetchWord n w).errOff = s.errOff := rfl
@[simp] theorem withFetchWord_errVal (s : State) (n w : Nat) : (s.withFetchWord n w).errVal = s.errVal := rfl
@[simp] theorem withFetchWord_result (s : State) (n w : Nat) : (s.withFetchWord n w).result = s.result := rfl
@[simp] theorem withFetchWord_encLen (s : State) (n w : Nat) : (s.withFetchWord n w).encLen = s.encLen := rfl
@[simp] theorem withFetchWord_inLen (s : State) (n w : Nat) : (s.withFetchWord n w).inLen = s.inLen := rfl
@[simp] theorem withFetchWord_inPos (s : State) (n w : Nat) : (s.withFetchWord n w).inPos = s.inPos := rfl
@[simp] theorem withFetchWord_outLen (s : State) (n w : Nat) : (s.withFetchWord n w).outLen = s.outLen := rfl
@[simp] theorem withFetchWord_idxOutLen (s : State) (n w : Nat) : (s.withFetchWord n w).idxOutLen = s.idxOutLen := rfl
@[simp] theorem withFetchWord_decMcs (s : State) (n w : Nat) : (s.withFetchWord n w).decMcs = s.decMcs := rfl
@[simp] theorem withFetchWord_pkBits (s : State) (n w : Nat) : (s.withFetchWord n w).pkBits = s.pkBits := rfl
@[simp] theorem withFetchWord_upBound (s : State) (n w : Nat) : (s.withFetchWord n w).upBound = s.upBound := rfl
@[simp] theorem withFetchWord_up (s : State) (n w : Nat) : (s.withFetchWord n w).up = s.up := rfl
@[simp] theorem withFetchWord_idxIn (s : State) (n w : Nat) : (s.withFetchWord n w).idxIn = s.idxIn := rfl
@[simp] theorem withFetchWord_idxOut (s : State) (n w : Nat) : (s.withFetchWord n w).idxOut = s.idxOut := rfl
@[simp] theorem withFetchWord_byteIn (s : State) (n w : Nat) : (s.withFetchWord n w).byteIn = s.byteIn := rfl
@[simp] theorem withFetchWord_byteOut (s : State) (n w : Nat) : (s.withFetchWord n w).byteOut = s.byteOut := rfl
@[simp] theorem withFetchWord_caps (s : State) (n w : Nat) : (s.withFetchWord n w).caps = s.caps := rfl
@[simp] theorem withFetchWord_readData (s : State) (n w : Nat) : (s.withFetchWord n w).readData = s.readData := rfl
@[simp] theorem withFetchWord_draw (s : State) (n w : Nat) : (s.withFetchWord n w).draw = s.draw := rfl

/-! ### Buffers -/

@[simp] theorem buf_setBuf (s : State) (sp : Space) (m : Memory) : (s.setBuf sp m).buf sp = m := by
  cases sp <;> rfl

theorem buf_setBuf_ne (s : State) {sp sp' : Space} (h : sp' ≠ sp) (m : Memory) :
    (s.setBuf sp m).buf sp' = s.buf sp' := by
  cases sp <;> cases sp' <;> first | rfl | exact absurd rfl h

@[simp] theorem buf_setBusy (s : State) (b : Bool) (sp : Space) : (s.setBusy b).buf sp = s.buf sp := by
  cases sp <;> rfl

@[simp] theorem buf_takeInput (s : State) (r : List Input) (sp : Space) : (s.takeInput r).buf sp = s.buf sp := by
  cases sp <;> rfl

@[simp] theorem buf_raiseFault (f : BlockFault) (s : State) (sp : Space) : (raiseFault f s).buf sp = s.buf sp := by
  cases sp <;> simp [State.buf]

@[simp] theorem buf_resetRegisters (s : State) (sp : Space) : (resetRegisters s).buf sp = s.buf sp := by
  cases sp <;> rfl

@[simp] theorem buf_hardwareReset (s : State) (sp : Space) : (hardwareReset s).buf sp = [] := by
  cases sp <;> rfl

@[simp] theorem buf_writeReg (o : BitVec 8) (v : Word) (s : State) (sp : Space) :
    (writeReg o v s).buf sp = s.buf sp := by
  cases sp <;> simp [State.buf]

@[simp] theorem setBusy_self (s : State) (h : s.busy = false) : s.setBusy false = s := by
  cases s; simp_all [State.setBusy]

end Sys2Proof.Machine
end

