-- ==== Sys2Proof/Laws/Ops.lean ====
section
/-! SUPPORT. One lemma per shared operation, saying once everything it can do. -/

namespace Sys2Proof.Machine

/-! ### Words and reads -/

/-- A number that fits is latched as it is. -/
@[simp] theorem regWord_of_lt (draw : Nat) {n : Nat} (h : n < 2 ^ 32) : regWord draw n = BitVec.ofNat 32 n := by
  simp only [regWord, if_pos h]

/-- A read sees the draw and the contents of the buffer, nothing else. -/
theorem cell_congr {s t : State} (hd : t.draw = s.draw) (sp : Space) (a : Nat)
    (h : Memory.lookup (t.buf sp) a = Memory.lookup (s.buf sp) a) : t.cell sp a = s.cell sp a := by
  simp only [State.cell, h, hd]

/-! ### Faults and commands -/

theorem raiseFault_latched {s : State} (f : BlockFault) (h : s.err = true) : raiseFault f s = s := by
  simp [raiseFault, h]

theorem raiseFault_clear {s : State} (f : BlockFault) (h : s.err = false) :
    raiseFault f s =
      { s with err := true, errcode := some f.code, errOff := regWord s.draw f.off, errVal := regWord s.draw f.val } := by
  simp [raiseFault, h]

/-- Everything a command can do. -/
theorem command_cases {s t : State} {body : State → Except BlockFault State} (h : command s body = .next t) :
    (s.err = true ∧ t = s) ∨ (s.err = false ∧ body s = .ok t) ∨
      (s.err = false ∧ ∃ f, body s = .error f ∧ t = raiseFault f s) := by
  unfold command at h
  split at h
  · rename_i he
    cases h; exact .inl ⟨he, rfl⟩
  · rename_i he
    have he : s.err = false := by simpa using he
    split at h <;> cases h
    · exact .inr (.inl ⟨he, ‹_›⟩)
    · exact .inr (.inr ⟨he, _, ‹_›, rfl⟩)

theorem command_ok {s t : State} {body : State → Except BlockFault State} (he : s.err = false)
    (h : body s = .ok t) : command s body = .next t := by
  simp [command, he, h]

theorem command_error {s : State} {f : BlockFault} {body : State → Except BlockFault State} (he : s.err = false)
    (h : body s = .error f) : command s body = .next (raiseFault f s) := by
  simp [command, he, h]

theorem command_dropped {s : State} {body : State → Except BlockFault State} (he : s.err = true) :
    command s body = .next s := by
  simp [command, he]

/-! ### Bodies: what each can answer when it succeeds -/

theorem pkAddBody_ok {w v : Nat} {s t : State} (h : pkAddBody w v s = .ok t) :
    legalWidth w = true ∧ flen (s.pkBits.length + w) ≤ s.caps.byteOut ∧
      t = { s with pkBits := s.pkBits ++ lowBits v w } := by
  unfold pkAddBody at h
  split at h
  · cases h
  · split at h
    · cases h
    · cases h; exact ⟨by simpa using ‹¬(!legalWidth w) = true›, by omega, rfl⟩

theorem pkFinishBody_ok {p : Nat} {s t : State} (h : pkFinishBody p s = .ok t) :
    (frame (BitVec.ofNat 8 p) s.pkBits).length ≤ s.caps.byteOut ∧
      t = { emitBytes (frame (BitVec.ofNat 8 p) s.pkBits) s with pkBits := [] } := by
  unfold pkFinishBody at h
  simp only at h
  split at h
  · cases h
  · cases h; exact ⟨by omega, rfl⟩

theorem upOpenBody_ok {s t : State} (h : upOpenBody s = .ok t) :
    s.inLen.toNat ≤ s.caps.byteIn ∧
      t = { s with upBound := true, up := Cursor.openAt s.inPos.toNat s.inLen.toNat } := by
  unfold upOpenBody at h
  split at h
  · cases h
  · cases h; exact ⟨by omega, rfl⟩

theorem upReadBody_ok {w : Nat} {s t : State} (h : upReadBody w s = .ok t) :
    s.upBound = true ∧ legalWidth w = true ∧ ∃ r, readCode (s.cell .byteIn) w s.up = .ok r ∧
      t = { s with up := r.cursor, result := BitVec.ofNat 32 r.value } := by
  unfold upReadBody at h
  split at h
  · cases h
  · split at h
    · cases h
    · split at h <;> cases h
      exact ⟨by simpa using ‹¬(!s.upBound) = true›, by simpa using ‹¬(!legalWidth w) = true›, _, ‹_›, rfl⟩

theorem upCloseBody_ok {s t : State} (h : upCloseBody s = .ok t) :
    s.upBound = true ∧ ∃ e, closeStream (s.cell .byteIn) s.up = .ok e ∧
      t = { s with inPos := BitVec.ofNat 32 e, result := BitVec.ofNat 32 e, upBound := false } := by
  unfold upCloseBody at h
  split at h
  · cases h
  · split at h <;> cases h
    exact ⟨by simpa using ‹¬(!s.upBound) = true›, _, ‹_›, rfl⟩

theorem encRunBody_ok {m : Nat} {s t : State} (h : encRunBody m s = .ok t) :
    s.pkBits = [] ∧ m ≤ 8 ∧ s.encLen ≠ 0 ∧ s.encLen.toNat ≤ s.caps.idxIn ∧
      firstBadIndex (clampMcs m) 0 (encInput s) = none ∧
      (encStream (encInput s) (clampMcs m)).length ≤ s.caps.byteOut ∧
      t = { emitBytes (encStream (encInput s) (clampMcs m)) s with warnClamp := clampWarning m } := by
  unfold encRunBody at h
  split at h
  · cases h
  split at h
  · cases h
  split at h
  · cases h
  split at h
  · cases h
  simp only at h
  split at h
  · cases h
  split at h
  · cases h
  cases h
  refine ⟨?_, by simp only [Config.mcsMax] at *; omega, ‹_›, by omega, ‹_›, by omega, rfl⟩
  rw [← List.length_eq_zero_iff]; omega

theorem decRunBody_ok {s t : State} (h : decRunBody s = .ok t) :
    s.upBound = false ∧ s.inLen.toNat ≤ s.caps.byteIn ∧
      ∃ d, decStream (s.cell .byteIn) s.caps.idxOut s.inPos.toNat s.inLen.toNat = .ok d ∧
        t = { s with
          idxOut := Memory.writeSeq s.idxOut 0 d.out, idxOutLen := BitVec.ofNat 32 d.out.length
          result := BitVec.ofNat 32 d.out.length, decMcs := BitVec.ofNat 8 d.m, inPos := BitVec.ofNat 32 d.stop } := by
  unfold decRunBody at h
  split at h
  · cases h
  · split at h
    · cases h
    · split at h <;> cases h
      exact ⟨by simpa using ‹¬s.upBound = true›, by omega, _, ‹_›, rfl⟩

/-! ### The cursor -/

/-- Everything `fetchByte` can do when it does not fault (R132): the current byte has an unread bit; or a payload byte is
consumed, in the current sub-block or as the first of the next one. -/
theorem fetchByte_ok {rd : Nat → Byte} {u v : Cursor} (h : fetchByte rd u = .ok v) :
    (u.boff ≠ 8 ∧ v = u) ∨
    (u.boff = 8 ∧ u.rem ≠ 0 ∧ u.pos < u.len ∧
      v = { u with cur := rd u.pos, curpos := u.pos, pos := u.pos + 1, rem := u.rem - 1, boff := 0 }) ∨
    (u.boff = 8 ∧ u.rem = 0 ∧ u.pos + 1 < u.len ∧ rd u.pos ≠ 0 ∧
      v = { u with
        cur := rd (u.pos + 1), curpos := u.pos + 1, pos := u.pos + 2, rem := (rd u.pos).toNat - 1, boff := 0 }) := by
  unfold fetchByte at h
  split at h
  · cases h; exact .inl ⟨‹_›, rfl⟩
  · rename_i hb
    have hb : u.boff = 8 := by omega
    split at h
    · cases h
    · rename_i u1 h1
      unfold nextBlock at h1
      split at h1
      · cases h1
        unfold nextPayload at h
        split at h <;> cases h
        exact .inr (.inl ⟨hb, ‹_›, by omega, rfl⟩)
      · split at h1
        · cases h1
        · split at h1 <;> cases h1
          unfold nextPayload at h
          split at h <;> cases h
          rename_i hr _ h0 hl
          exact .inr (.inr ⟨hb, by omega, by simp only at hl; omega, h0, rfl⟩)

/-- Everything `nextBit` can do when it does not fault (R132). -/
theorem nextBit_ok {rd : Nat → Byte} {u v : Cursor} {b : Bool} (h : nextBit rd u = .ok (b, v)) :
    ∃ u1, fetchByte rd u = .ok u1 ∧ b = u1.cur.getLsbD u1.boff ∧ v = { u1 with boff := u1.boff + 1 } := by
  unfold nextBit at h
  split at h <;> cases h
  exact ⟨_, ‹_›, rfl, rfl⟩

/-- A read is one bit and then the others (R134). -/
theorem readCode_ok {rd : Nat → Byte} {w : Nat} {u : Cursor} {r : CodeRead} (h : readCode rd (w + 1) u = .ok r) :
    ∃ b u1 x, nextBit rd u = .ok (b, u1) ∧ readValue rd w u1 = .ok (x, r.cursor) ∧
      r.value = b.toNat + 2 * x ∧ r.start = u1.curpos := by
  rw [readCode] at h
  split at h
  · cases h
  · split at h <;> cases h
    exact ⟨_, _, _, ‹_›, ‹_›, rfl, rfl⟩

/-- When the end-of-stream check succeeds (R135, R186). -/
theorem closeStream_ok {rd : Nat → Byte} {u : Cursor} {e : Nat} :
    closeStream rd u = .ok e ↔ u.rem = 0 ∧ u.pos < u.len ∧ rd u.pos = 0 ∧ e = u.pos + 1 := by
  unfold closeStream
  constructor
  · intro h
    split at h
    · cases h
    · split at h
      · cases h
      · split at h <;> cases h
        exact ⟨by omega, by omega, by simpa using ‹¬rd u.pos ≠ 0›, rfl⟩
  · rintro ⟨h1, h2, h3, rfl⟩
    simp [h1, h3]
    omega

/-! ### The step -/

theorem step_idle {s : State} (h : s.inputs = []) : step s = .next s := by
  simp [step, h]

theorem step_input {s : State} {i : Input} {rest : List Input} (h : s.inputs = i :: rest) :
    step s = perform i (s.takeInput rest) := by
  simp [step, h]

/-- A CMD write, seen from the step: dispatch between BUSY's set and clear. -/
theorem step_command {s : State} {c : Word} {rest : List Input} (h : s.aboutToIssue c rest) :
    step s = endCommand (issue c ((s.takeInput rest).setBusy true)) := by
  rw [step_input h.1]
  simp [perform, unlessBusy, h.2, hostWriteReg, hostCommand]

end Sys2Proof.Machine
end

