-- ==== Sys2Proof/Laws/Codec.lean ====
section
/-! SUPPORT. Small lemmas of the encoder's steps and of the bit cursor: what each leaves alone, and what a read consumes. -/

namespace Sys2Proof.Machine

/-! ## The encoder (spec/42_lzw_encoder.md R155 to R158) -/

@[simp] theorem Enc.emit_m (e : Enc) (c w : Nat) : (e.emit c w).m = e.m := rfl
@[simp] theorem Enc.emit_cb (e : Enc) (c w : Nat) : (e.emit c w).cb = e.cb := rfl
@[simp] theorem Enc.emit_nf (e : Enc) (c w : Nat) : (e.emit c w).nf = e.nf := rfl
@[simp] theorem Enc.emit_dict (e : Enc) (c w : Nat) : (e.emit c w).dict = e.dict := rfl
@[simp] theorem Enc.emit_buf (e : Enc) (c w : Nat) : (e.emit c w).buf = e.buf := rfl
@[simp] theorem Enc.emit_emitted (e : Enc) (c w : Nat) : (e.emit c w).emitted = e.emitted ++ [(c, w)] := rfl

/-- Everything a width update can do (R156, R157). -/
theorem Enc.widthUpdate_cases (e : Enc) (a : Nat) :
    (a ≠ 2 ^ e.cb ∧ e.widthUpdate a = e) ∨
    (a = 2 ^ e.cb ∧ e.cb < 12 ∧ e.widthUpdate a = { e with cb := e.cb + 1 }) ∨
    (a = 2 ^ e.cb ∧ 12 ≤ e.cb ∧
      e.widthUpdate a =
        { e with emitted := e.emitted ++ [(clearCode e.m, 12)], dict := [], nf := firstFree e.m, cb := e.m + 1 }) := by
  unfold Enc.widthUpdate
  split
  · split
    · exact .inr (.inr ⟨‹_›, by simp only [Config.maxBits] at *; omega, rfl⟩)
    · exact .inr (.inl ⟨‹_›, by simp only [Config.maxBits] at *; omega, rfl⟩)
  · exact .inl ⟨‹_›, rfl⟩

@[simp] theorem Enc.widthUpdate_m (e : Enc) (a : Nat) : (e.widthUpdate a).m = e.m := by
  obtain ⟨-, h⟩ | ⟨-, -, h⟩ | ⟨-, -, h⟩ := e.widthUpdate_cases a <;> rw [h]

@[simp] theorem Enc.consume_m (e : Enc) (x : Byte) : (e.consume x).m = e.m := by
  unfold Enc.consume Enc.miss
  split
  · rfl
  · split <;> simp

@[simp] theorem Enc.foldl_consume_m (xs : List Byte) (e : Enc) : (xs.foldl Enc.consume e).m = e.m := by
  induction xs generalizing e with
  | nil => rfl
  | cons x xs ih => rw [List.foldl_cons, ih, Enc.consume_m]

@[simp] theorem Enc.flush_m (e : Enc) : e.flush.m = e.m := by
  unfold Enc.flush
  split <;> simp

/-! ## What a read consumes (spec/41_bit_unpacker.md R132, R134) -/

/-- A bit that is read leaves fewer unread ones. -/
theorem nextBit_bitsLeft {rd : Nat → Byte} {u v : Cursor} {b : Bool} (h : nextBit rd u = .ok (b, v)) (hb : u.boff ≤ 8) :
    v.boff ≤ 8 ∧ v.bitsLeft < u.bitsLeft := by
  obtain ⟨u1, h1, -, rfl⟩ := nextBit_ok h
  obtain ⟨h2, rfl⟩ | ⟨h2, -, h3, rfl⟩ | ⟨h2, -, h3, -, rfl⟩ := fetchByte_ok h1 <;>
    simp only [Cursor.bitsLeft] <;> omega

theorem readValue_bitsLeft {rd : Nat → Byte} {w x : Nat} {u v : Cursor} (h : readValue rd w u = .ok (x, v))
    (hb : u.boff ≤ 8) : v.boff ≤ 8 ∧ v.bitsLeft + w ≤ u.bitsLeft := by
  induction w generalizing u x v with
  | zero => cases h; exact ⟨hb, le_rfl⟩
  | succ w ih =>
    rw [readValue] at h
    split at h
    · cases h
    · split at h <;> cases h
      obtain ⟨h1, h2⟩ := nextBit_bitsLeft ‹_› hb
      obtain ⟨h3, h4⟩ := ih ‹_› h1
      exact ⟨h3, by omega⟩

/-- A read of `w` bits leaves at least `w` fewer unread ones. -/
theorem readCode_bitsLeft {rd : Nat → Byte} {w : Nat} {u : Cursor} {r : CodeRead} (h : readCode rd w u = .ok r)
    (hb : u.boff ≤ 8) : r.cursor.boff ≤ 8 ∧ r.cursor.bitsLeft + w ≤ u.bitsLeft := by
  cases w with
  | zero => cases h; exact ⟨hb, le_rfl⟩
  | succ w =>
    obtain ⟨b, u1, x, h1, h2, -, -⟩ := readCode_ok h
    obtain ⟨h3, h4⟩ := nextBit_bitsLeft h1 hb
    obtain ⟨h5, h6⟩ := readValue_bitsLeft h2 h3
    exact ⟨h5, by omega⟩

end Sys2Proof.Machine
end

