-- ==== Sys2Proof/Laws/PerInstr.lean ====
section
/-! SUPPORT. Laws over all commands, one lemma per constructor of Instr. Family EncodeOpcode: a command's word carries the
command's operation code in its OPC field (spec/30_encoding.md R80, R82). -/

namespace Sys2Proof.Laws.EncodeOpcode

def Statement (i : Instr) : Prop := wellFormed i = true → opcOf (encode i) = opcodeOf i

/-- The OPC field of a word whose other fields fit below it. -/
theorem opcOf_commandWord {opc w imm : Nat} (ho : opc < 256) (h : w * 2 ^ 20 + imm < 2 ^ 24) :
    opcOf (commandWord opc w imm) = opc := by
  simp only [opcOf, bits, commandWord, BitVec.toNat_ofNat]
  omega

theorem pkOpen : Statement .pkOpen := fun _ => by decide

theorem pkAdd (w value : Nat) : Statement (.pkAdd w value) := by
  intro h
  simp only [wellFormed, fitsW, fitsImm, Bool.and_eq_true, decide_eq_true_eq] at h
  exact opcOf_commandWord (by decide) (by omega)

theorem pkFinish (pre : Nat) : Statement (.pkFinish pre) := by
  intro h
  simp only [wellFormed, fitsPrefix, decide_eq_true_eq] at h
  exact opcOf_commandWord (by decide) (by omega)

theorem upOpen : Statement .upOpen := fun _ => by decide

theorem upRead (w : Nat) : Statement (.upRead w) := by
  intro h
  simp only [wellFormed, fitsW, decide_eq_true_eq] at h
  exact opcOf_commandWord (by decide) (by omega)

theorem upClose : Statement .upClose := fun _ => by decide

theorem encRun (mcs : Nat) : Statement (.encRun mcs) := by
  intro h
  simp only [wellFormed, fitsImm, decide_eq_true_eq] at h
  exact opcOf_commandWord (by decide) (by omega)

theorem decRun : Statement .decRun := fun _ => by decide

theorem softReset (low : Nat) : Statement (.softReset low) := by
  intro h
  simp only [wellFormed, fitsLow, decide_eq_true_eq] at h
  exact opcOf_commandWord (by decide) (by omega)

end Sys2Proof.Laws.EncodeOpcode
end

