-- ==== Sys2Proof/Tests/Slice0.lean ====
section
/-! SUPPORT. The model's own tests. Expected values come from spec/30_encoding.md R82 and spec/95_test_vectors.md (the row is
named at each test), never from the model. Then, for every statement with hypotheses, a witness: concrete values that
meet them. -/

namespace Sys2Proof.Tests

open Sys2Proof Sys2Proof.Machine

/-! ## Helpers -/

/-- The next state, or the reset state when there is none. -/
def after : Host.Outcome State Fault Refusal → State
  | .next t => t
  | _ => State.reset

/-- A state whose buffer holds the values from cell 0. -/
def filled (sp : Space) (vals : List Nat) (s : State) : State :=
  s.setBuf sp (vals.zipIdx.map fun vi => (vi.2, BitVec.ofNat 8 vi.1))

/-- The values a buffer lists. -/
def values (m : Memory) : List Nat := m.map fun c => c.2.toNat

/-- The reset state with other capacities, all equal. -/
def capped (n : Nat) : State := { State.reset with caps := ⟨n, n, n, n⟩ }

/-- The reset state with an input in IDX_IN. -/
def encoding (vals : List Nat) : State :=
  { filled .idxIn vals State.reset with encLen := BitVec.ofNat 32 vals.length }

/-- The reset state with a stream in BYTE_IN. -/
def reading (vals : List Nat) (pos : Nat) : State :=
  { filled .byteIn vals State.reset with inLen := BitVec.ofNat 32 vals.length, inPos := BitVec.ofNat 32 pos }

/-- The same with the unpacker bound. -/
def bound (vals : List Nat) (pos : Nat) : State :=
  { reading vals pos with upBound := true, up := Cursor.openAt pos vals.length }

/-- A packer holding bits. -/
def holding (bs : List Bool) : State := { State.reset with pkBits := bs }

/-- A state with a latched error. -/
def latched : State := raiseFault ⟨.malformedNoTerminator, 4, 0x3B⟩ State.reset

/-- A state whose next input is given. -/
def facing (i : Input) (s : State) : State := { s with inputs := [i] }

/-- A list read as a buffer. -/
def reads (vals : List Nat) (a : Nat) : Byte := BitVec.ofNat 8 (vals.getD a 0)

/-! ## WellFormed refuses an operand that does not fit -/

theorem test_wf_refuses_wide_w : wellFormed (.pkAdd 16 0) = false ∧ wellFormed (.upRead 16) = false := by decide
theorem test_wf_refuses_wide_imm : wellFormed (.pkAdd 1 65536) = false ∧ wellFormed (.encRun 65536) = false := by decide
theorem test_wf_refuses_wide_prefix : wellFormed (.pkFinish 256) = false := by decide
theorem test_wf_refuses_wide_low : wellFormed (.softReset 16777216) = false := by decide

/-! ## Decoding (R82; words of 95_test_vectors.md) -/

theorem test_decode_pk_open : decodeTableWord 32 0x01000000 = some .pkOpen := by decide
theorem test_decode_pk_add : decodeTableWord 32 0x02D00001 = some (.pkAdd 13 1) := by decide
theorem test_decode_pk_finish : decodeTableWord 32 0x030000A5 = some (.pkFinish 0xA5) := by decide
theorem test_decode_up_open : decodeTableWord 32 0x04000000 = some .upOpen := by decide
theorem test_decode_up_read : decodeTableWord 32 0x05C00000 = some (.upRead 12) := by decide
theorem test_decode_up_close : decodeTableWord 32 0x06000000 = some .upClose := by decide
theorem test_decode_enc_run : decodeTableWord 32 0x0800FFFE = some (.encRun 0xFFFE) := by decide
theorem test_decode_dec_run : decodeTableWord 32 0x09000000 = some .decRun := by decide
theorem test_decode_soft_reset : decodeTableWord 32 0x0F123456 = some (.softReset 0x123456) := by decide
/-- C1 to C3, PK13 to PK15, E24. -/
theorem test_decode_refuses :
    [0x00000000, 0x07000000, 0x0A000000, 0x03000102, 0x01000001, 0x02310000, 0x08100002, 0x10000000].all
      (fun w => decodeTableWord 32 w == none) = true := by decide

/-! ## Commands (95_test_vectors.md) -/

/-- PK_OPEN's example (R111). -/
theorem test_pk_open : (after (exec .pkOpen (holding [false, false, true]))).pkBits = [] := by decide
/-- R113's example: the third add of PK1. -/
theorem test_pk_add : (after (exec (.pkAdd 3 5) (holding [false, false, true, false, false, false]))).pkBits =
    [false, false, true, false, false, false, true, false, true] := by decide
/-- PK3: value bits above the width are ignored. -/
theorem test_pk_add_ignores_high_bits :
    (after (exec (.pkAdd 3 0xFFFC) State.reset)).pkBits = [false, false, true] := by decide
/-- PK1. -/
theorem test_pk_finish : values (after (exec (.pkFinish 2)
    (holding [false, false, true, false, false, false, true, false, true]))).byteOut = [0x02, 0x02, 0x44, 0x01, 0x00] := by
  decide
/-- PK12. -/
theorem test_pk_finish_overflow :
    (errcodeWord (after (exec (.pkFinish 2) (capped 1))), (after (exec (.pkFinish 2) (capped 1))).errVal) =
      ((0x43 : Word), (2 : Word)) := by decide
/-- UP_OPEN's example (R131). -/
theorem test_up_open : (after (exec .upOpen (reading [0x02, 0x02, 0x44, 0x01, 0x00] 1))).up = ⟨1, 5, 0, 0, 8, 1⟩ := by
  decide
/-- UP2: a read across a sub-block boundary. -/
theorem test_up_read : (after (exec (.upRead 12) (bound [0x01, 0xFF, 0x01, 0x0F, 0x00] 0))).result = 4095 := by decide
/-- UP8: the width fault keeps the unpacker bound. -/
theorem test_up_read_bad_width : statusWord (after (exec (.upRead 0) (bound [0x00] 0))) = 0x09 := by decide
/-- UP3. -/
theorem test_up_close : (after (exec .upClose (bound [0x00] 0))).inPos = 1 := by decide
/-- UP7. -/
theorem test_up_close_unbound : errcodeWord (after (exec .upClose State.reset)) = 0x42 := by decide
/-- E6: the flush grows the width. -/
theorem test_enc_run : values (after (exec (.encRun 2) (encoding [1, 1, 1, 1]))).byteOut =
    [0x02, 0x02, 0x8C, 0x53, 0x00] := by decide +kernel
/-- E13: the clamp warning. -/
theorem test_enc_run_clamps : statusWord (after (exec (.encRun 0) (encoding [0]))) = 0x10 := by decide +kernel
/-- D3: the miss case. -/
theorem test_dec_run : values (after (exec .decRun (reading [0x02, 0x03, 0x84, 0x6F, 0x05, 0x00] 0))).idxOut =
    [0, 0, 0, 0, 0, 0, 0, 0] := by decide +kernel
/-- D12: a code equal to the size with no previous sequence. -/
theorem test_dec_run_desync : (errcodeWord (after (exec .decRun (reading [0x02, 0x01, 0x34, 0x00] 0))),
    (after (exec .decRun (reading [0x02, 0x01, 0x34, 0x00] 0))).errOff,
    (after (exec .decRun (reading [0x02, 0x01, 0x34, 0x00] 0))).errVal) = ((0x30 : Word), (2 : Word), (6 : Word)) := by
  decide +kernel
/-- C4: SOFT_RESET clears a latched error. -/
theorem test_soft_reset : statusWord (after (exec (.softReset 0xFFFFFF) latched)) = 0 := by decide
/-- R210's corner case: it clears the registers with no error latched too. -/
theorem test_soft_reset_clears_enc_len : (after (exec (.softReset 0) (encoding [0]))).encLen = 0 := by decide
/-- C1, through a step: the all-zeros word. -/
theorem test_step_illegal_word : errcodeWord (after (step (State.reset.withFetchWord 32 0))) = 0x40 := by decide
/-- C7: a host write of ENC_LEN while ERR = 1 is stored. -/
theorem test_step_write_while_latched : (after (step (facing (.writeReg 0x18 7) latched))).encLen = 7 := by decide

/-! ## Witnesses: concrete values that meet each statement's hypotheses -/

theorem test_witness_DecodeOfEncodeIsIdentity :
    wellFormed (.pkAdd 15 65535) = true ∧ wellFormed (.softReset 0xFFFFFF) = true := by decide

theorem test_witness_EncodeOfDecodeIsIdentity : decode 0x02F0FFFF = .ok (.pkAdd 15 0xFFFF) := by rfl

theorem test_witness_StepRunsTheDecodedCommand :
    (facing (.writeReg 0x00 0x02300004) State.reset).aboutToIssue 0x02300004 [] ∧
    decode 0x02300004 = .ok (.pkAdd 3 4) ∧
    ∃ t, exec (.pkAdd 3 4) (((facing (.writeReg 0x00 0x02300004) State.reset).takeInput []).setBusy true) = .next t :=
  ⟨⟨rfl, rfl⟩, rfl, _, rfl⟩

theorem test_witness_IdleBlockKeepsItsState : State.reset.inputs = [] := by decide

theorem test_witness_IllegalWord_unassigned :
    (facing (.writeReg 0x00 0xFF000000) State.reset).aboutToIssue 0xFF000000 [] ∧
    (facing (.writeReg 0x00 0xFF000000) State.reset).err = false ∧
    unassignedOpc (opcOf 0x00000000) ∧ unassignedOpc (opcOf 0x07FFFFFF) ∧ unassignedOpc (opcOf 0x0A000000) ∧
    unassignedOpc (opcOf 0x0EFFFFFF) ∧ unassignedOpc (opcOf 0x10000000) ∧ unassignedOpc (opcOf 0xFF000000) := by
  refine ⟨⟨rfl, rfl⟩, rfl, ?_⟩
  unfold unassignedOpc
  decide

theorem test_witness_IllegalWord_mustBe :
    (facing (.writeReg 0x00 0x08800000) State.reset).aboutToIssue 0x08800000 [] ∧
    (facing (.writeReg 0x00 0x08800000) State.reset).err = false ∧
    mustBeFieldSet 0x01000001 ∧ mustBeFieldSet 0x02080000 ∧ mustBeFieldSet 0x03000100 ∧ mustBeFieldSet 0x05000001 ∧
    mustBeFieldSet 0x08800000 := by
  unfold mustBeFieldSet
  exact ⟨⟨rfl, rfl⟩, rfl, .inl ⟨by decide, by decide⟩, .inr (.inl ⟨by decide, by decide⟩),
    .inr (.inr (.inl ⟨by decide, by decide⟩)), .inr (.inr (.inr (.inl ⟨by decide, by decide⟩))),
    .inr (.inr (.inr (.inr ⟨by decide, by decide⟩)))⟩

theorem test_witness_LatchedErrorDropsOtherWords :
    (facing (.writeReg 0x00 0x08000002) latched).aboutToIssue 0x08000002 [] ∧
    (facing (.writeReg 0x00 0x08000002) latched).err = true ∧ opcOf 0x08000002 ≠ 0x0F :=
  ⟨⟨rfl, rfl⟩, rfl, by decide⟩

theorem test_witness_LatchedErrorStaysUntilReset :
    (∃ t, step (facing (.writeReg 0x00 0x08000002) latched) = .next t) ∧
    (facing (.writeReg 0x00 0x08000002) latched).err = true ∧
    (∀ rest, (facing (.writeReg 0x00 0x08000002) latched).inputs ≠ .hardwareReset :: rest) ∧
    (∀ c rest, (facing (.writeReg 0x00 0x08000002) latched).inputs = .writeReg 0x00 c :: rest → opcOf c ≠ 0x0F) := by
  refine ⟨⟨_, rfl⟩, rfl, ?_, ?_⟩
  · intro rest h; cases h
  · intro c rest h; cases h; decide

theorem test_witness_FirstFaultIsLatched :
    latched.err = true ∧ State.reset.err = false ∧ (0xFFFFFFFF : Nat) < 2 ^ 32 := by decide

theorem test_witness_FaultingCommandChangesOnlyTheLatch :
    State.reset.err = false ∧ ∃ t, exec .upClose State.reset = .next t ∧ t.err = true := ⟨rfl, _, rfl, rfl⟩

theorem test_witness_PkOpenEmptiesThePacker : (holding [true]).err = false := by decide

theorem test_witness_PkAddAppendsTheLowBits :
    (capped 5).err = false ∧ flen ((capped 5).pkBits.length + 12) ≤ (capped 5).caps.byteOut ∧
    flen ((capped 4).pkBits.length + 1) ≤ (capped 4).caps.byteOut := by decide

theorem test_witness_PackerFaultsInOrder :
    (capped 4).err = false ∧ ((0 : Nat) < 1 ∨ 12 < 0) ∧ ((13 : Nat) < 1 ∨ 12 < 13) ∧
    (capped 4).caps.byteOut < flen ((capped 4).pkBits.length + 12) ∧
    (capped 1).caps.byteOut < (frame (BitVec.ofNat 8 2) (capped 1).pkBits).length := by decide

theorem test_witness_PkFinishWritesTheFrame :
    (capped 2).err = false ∧ (frame (BitVec.ofNat 8 8) (capped 2).pkBits).length ≤ (capped 2).caps.byteOut := by decide

theorem test_witness_PayloadBytesHoldTheStreamBits :
    1 < ceilDiv (List.replicate 9 true).length 8 ∧ (7 : Nat) < 8 := by decide

/-- A state that keeps the invariant, with a bound cursor inside a byte, a packer holding bits, a latched error and listed
cells. -/
def wellFormedState : State :=
  { bound [0x02, 0xAB, 0xCD, 0x00] 0 with
    pkBits := [true], up := ⟨2, 4, 1, 0xAB, 5, 1⟩, byteOut := [(0, 7), (9, 0)], outLen := 2, decMcs := 8
    err := true, errcode := some .configBadWidth, errVal := 13 }

theorem test_wellFormedState_inv : wellFormedState.Inv where
  caps_ok := by decide
  not_busy := rfl
  latch_clear := fun h => by cases h
  latch_set := fun _ => rfl
  mem_wf := fun sp => by cases sp <;> decide
  mem_in := fun sp => by cases sp <;> decide
  out_len_le := by decide
  idx_len_le := by decide
  dec_mcs_ok := by decide
  pk_fits := by decide
  up_ok := fun _ => ⟨by decide, by decide, by decide, by decide, by decide, by decide⟩

theorem test_witness_PackerBitsAreBounded : wellFormedState.Inv ∧ wellFormedState.pkBits ≠ [] :=
  ⟨test_wellFormedState_inv, by decide⟩

theorem test_witness_UpOpenBindsAtInPos :
    { State.reset with inLen := 4096 }.err = false ∧
    ({ State.reset with inLen := 4096 } : State).inLen.toNat ≤ State.reset.caps.byteIn ∧
    State.reset.caps.byteIn < ({ State.reset with inLen := 4097 } : State).inLen.toNat := by decide

/-- One cursor for each clause of the statement. -/
theorem test_witness_NextBitIsLazy :
    (⟨2, 3, 0, 0x80, 7, 1⟩ : Cursor).boff < 8 ∧
    (⟨1, 2, 1, 0, 8, 0⟩ : Cursor).rem ≠ 0 ∧ (⟨1, 2, 1, 0, 8, 0⟩ : Cursor).pos < 2 ∧
    reads [1, 0xAB] 0 ≠ 0 ∧ (⟨0, 2, 0, 0, 8, 0⟩ : Cursor).pos + 1 < 2 ∧
    (⟨2, 2, 0, 0, 8, 0⟩ : Cursor).len ≤ 2 ∧
    reads [0] 0 = 0 ∧ (⟨0, 1, 0, 0, 8, 0⟩ : Cursor).pos < 1 ∧
    reads [5] 0 ≠ 0 ∧ (⟨0, 1, 0, 0, 8, 0⟩ : Cursor).len ≤ 0 + 1 := by decide

theorem test_witness_UpReadReturnsTheNextBits :
    (bound [0x01, 0xFF, 0x01, 0x0F, 0x00] 0).err = false ∧ (bound [0x01, 0xFF, 0x01, 0x0F, 0x00] 0).upBound = true ∧
    (∃ r, readCode ((bound [0x01, 0xFF, 0x01, 0x0F, 0x00] 0).cell .byteIn) 12 (bound [0x01, 0xFF, 0x01, 0x0F, 0x00] 0).up =
      .ok r) ∧
    (∃ r, readCode ((bound [0x01, 0xFF, 0x01, 0x0F, 0x00] 0).cell .byteIn) 1 (bound [0x01, 0xFF, 0x01, 0x0F, 0x00] 0).up =
      .ok r) := ⟨rfl, rfl, ⟨_, rfl⟩, ⟨_, rfl⟩⟩

/-- Two successive bits of the byte 0x07, and a first bit that faults. -/
theorem test_witness_UpReadReturnsTheNextBits_bits :
    (∃ (bit : Nat → Bool) (cs : Nat → Cursor), cs 0 = Cursor.openAt 0 3 ∧
      ∀ i, i < 2 → nextBit (reads [1, 7, 0]) (cs i) = .ok (bit i, cs (i + 1))) ∧
    ∃ f, nextBit (reads [0]) (Cursor.openAt 0 1) = .error f := by
  refine ⟨⟨fun _ => true, fun i => if i = 0 then Cursor.openAt 0 3 else ⟨2, 3, 0, 7, i, 1⟩, rfl, ?_⟩, _, rfl⟩
  intro i h
  obtain rfl | rfl : i = 0 ∨ i = 1 := by omega
  all_goals rfl

theorem test_witness_UnpackerFaultsInOrder :
    State.reset.err = false ∧ State.reset.upBound = false ∧
    (bound [0x00] 0).err = false ∧ (bound [0x00] 0).upBound = true ∧ ((0 : Nat) < 1 ∨ 12 < 0) ∧
    (∃ f, readCode ((bound [0x00] 0).cell .byteIn) 1 (bound [0x00] 0).up = .error f) ∧
    0 < wellFormedState.up.rem ∧ wellFormedState.upBound = true ∧
    (bound [0x00] 1).up.rem = 0 ∧ (bound [0x00] 1).up.len ≤ (bound [0x00] 1).up.pos ∧
    (bound [0x3B] 0).up.pos < (bound [0x3B] 0).up.len ∧ (bound [0x3B] 0).cell .byteIn 0 ≠ 0 :=
  ⟨rfl, rfl, rfl, rfl, .inl (by decide), ⟨_, rfl⟩, by decide, rfl, rfl, by decide, by decide, by decide⟩

theorem test_witness_UpCloseConsumesTheTerminator :
    (bound [0x00] 0).err = false ∧ (bound [0x00] 0).upBound = true ∧ (bound [0x00] 0).up.rem = 0 ∧
    (bound [0x00] 0).up.pos < (bound [0x00] 0).up.len ∧ (bound [0x00] 0).cell .byteIn (bound [0x00] 0).up.pos = 0 := by
  decide

theorem test_witness_ReadsStayBelowTheLatchedLength :
    ∀ a, (Cursor.openAt 1 3).pos ≤ a → a < (Cursor.openAt 1 3).len → reads [9, 1, 5, 7] a = reads [8, 1, 5, 6] a := by
  intro a h1 h2
  simp only [Cursor.openAt] at h1 h2
  obtain rfl | rfl : a = 1 ∨ a = 2 := by omega
  all_goals decide

theorem test_witness_UnpackerInvertsPacker :
    (∀ cw ∈ [((4 : Nat), (3 : Nat)), (0, 3), (5, 3)], 1 ≤ cw.2) ∧
    holdsAt (reads [0xAA, 0x02, 0x02, 0x44, 0x01, 0x00]) 1 (frame 2 (codeBits [(4, 3), (0, 3), (5, 3)])) ∧
    1 + (frame 2 (codeBits [(4, 3), (0, 3), (5, 3)])).length ≤ 6 := by
  unfold holdsAt
  decide

/-- E23: the stream of one index just fits five cells. -/
def encodingCapped (vals : List Nat) (n : Nat) : State := { encoding vals with caps := ⟨n, n, n, n⟩ }

theorem test_witness_EncRunWritesTheStream :
    (encodingCapped [0] 5).err = false ∧ (encodingCapped [0] 5).pkBits = [] ∧ (encodingCapped [0] 5).encLen ≠ 0 ∧
    (encodingCapped [0] 5).encLen.toNat ≤ (encodingCapped [0] 5).caps.idxIn ∧
    (∀ k, k < (encodingCapped [0] 5).encLen.toNat → ((encodingCapped [0] 5).cell .idxIn k).toNat < 2 ^ max 8 2) ∧
    (encStream (encInput (encodingCapped [0] 5)) (max 2 2)).length ≤ (encodingCapped [0] 5).caps.byteOut := by
  decide +kernel

theorem test_witness_EncRunFaultsInOrder :
    (holding [true]).err = false ∧ (holding [true]).pkBits ≠ [] ∧
    State.reset.pkBits = [] ∧ (8 : Nat) < 9 ∧ State.reset.encLen = 0 ∧
    (encodingCapped [0, 0] 1).encLen ≠ 0 ∧ (encodingCapped [0, 0] 1).caps.idxIn < (encodingCapped [0, 0] 1).encLen.toNat ∧
    (encoding [3, 4]).encLen.toNat ≤ (encoding [3, 4]).caps.idxIn ∧ 1 < (encoding [3, 4]).encLen.toNat ∧
    2 ^ max 2 2 ≤ ((encoding [3, 4]).cell .idxIn 1).toNat ∧
    (∀ j, j < 1 → ((encoding [3, 4]).cell .idxIn j).toNat < 2 ^ max 2 2) ∧
    (encodingCapped [0] 4).encLen.toNat ≤ (encodingCapped [0] 4).caps.idxIn ∧
    (∀ k, k < (encodingCapped [0] 4).encLen.toNat → ((encodingCapped [0] 4).cell .idxIn k).toNat < 2 ^ max 2 2) ∧
    (encodingCapped [0] 4).caps.byteOut < (encStream (encInput (encodingCapped [0] 4)) (max 2 2)).length := by
  decide +kernel

theorem test_witness_ClampWarningFollowsSuccess :
    (∃ t, exec (.encRun 1) (encoding [0]) = .next t ∧ t.err = false) ∧
    (∃ t, exec (.encRun 9) (encoding [0]) = .next t ∧ t.err = true) := ⟨⟨_, rfl, rfl⟩, ⟨_, rfl, rfl⟩⟩

theorem test_witness_ClampWarning_changes :
    (∃ t, exec (.encRun 1) (encoding [0]) = .next t ∧ t.warnClamp ≠ (encoding [0]).warnClamp) ∧
    (∃ t, exec (.softReset 0) { State.reset with warnClamp := true } = .next t ∧ t.warnClamp ≠ true) ∧
    (∃ t, exec (.encRun 0) (encoding [0]) = .next t) ∧ ∃ t, exec (.encRun 2) (encoding [0]) = .next t :=
  ⟨⟨_, rfl, by decide⟩, ⟨_, rfl, by decide⟩, ⟨_, rfl⟩, ⟨_, rfl⟩⟩

/-- ENC after the inputs 1, 1, 1 of E6. -/
def encAfterThree : Enc := ⟨2, 3, 7, [((1, 1), 6)], some 6, [(4, 3), (1, 3)]⟩

theorem test_encAfterThree : [1, 1, 1].foldl Enc.consume (Enc.start 2) = encAfterThree := by decide

theorem test_witness_EncoderKeepsItsRanges :
    encAfterThree.Inv ∧ (3 : Byte).toNat < 2 ^ encAfterThree.m ∧
    ([255] : List Byte) ≠ [] ∧ indicesBelow 8 [255] := by
  refine ⟨⟨by decide, by decide, by decide, by decide, ?_, by decide⟩, by decide, by decide, ?_⟩
  · intro b h
    cases h
    exact ⟨.inr (by decide), by decide⟩
  · unfold indicesBelow; decide

/-- ENC in a segment's last place: the next miss assigns 4096. -/
def encFull : Enc := ⟨2, 12, 4096, [((1, 1), 6)], some 6, []⟩

/-- One value for each clause: first index, hit, miss and flush at a width that stays (7 against 8), that grows (8) and that
meets the ceiling (4096). -/
theorem test_witness_EncoderKeepsItsRanges_steps :
    (Enc.start 2).buf = none ∧
    { encAfterThree with buf := some 1 }.dict.lookup (1, 1) = some 6 ∧
    encAfterThree.buf = some 6 ∧ encAfterThree.dict.lookup (6, 3) = none ∧ encAfterThree.nf ≠ 2 ^ encAfterThree.cb ∧
    { encAfterThree with nf := 8 }.nf = 2 ^ encAfterThree.cb ∧ encAfterThree.cb < 12 ∧
    encFull.buf = some 6 ∧ encFull.dict.lookup (6, 3) = none ∧ encFull.nf = 2 ^ encFull.cb ∧ encFull.cb = 12 := by
  decide

/-- E6's input 1, 1, 1, 1: the fourth index misses, so 6 is emitted and 7 assigned (R155). -/
theorem test_enc_miss : (encAfterThree.consume 1).emitted = [(4, 3), (1, 3), (6, 3)] ∧
    (encAfterThree.consume 1).dict.lookup (6, 1) = some 7 := by decide

theorem test_witness_EmittedWidthsFollowTheFormula : ([3, 0] : List Byte) ≠ [] ∧ indicesBelow 2 [3, 0] := by
  unfold indicesBelow; decide

theorem test_witness_EmittedCodesFollowTheGrammar : ([255, 0] : List Byte) ≠ [] ∧ indicesBelow 8 [255, 0] := by
  unfold indicesBelow; decide

theorem test_witness_EncoderRunsAreIndependent :
    (encoding [0]).encLen = { encoding [0] with result := 9 }.encLen ∧
    (∀ k, k < (encoding [0]).encLen.toNat →
      (encoding [0]).cell .idxIn k = ({ encoding [0] with result := 9 } : State).cell .idxIn k) ∧
    (∃ t, exec (.encRun 2) (encoding [0]) = .next t ∧ t.err = false) ∧
    (∃ t, exec (.encRun 2) { encoding [0] with result := 9 } = .next t ∧ t.err = false) :=
  ⟨rfl, fun _ _ => rfl, ⟨_, rfl, rfl⟩, ⟨_, rfl, rfl⟩⟩

theorem test_witness_DecRunWritesTheIndices :
    (reading [0x02, 0x01, 0x2C, 0x00] 0).upBound = false ∧
    ∃ d, decStream ((reading [0x02, 0x01, 0x2C, 0x00] 0).cell .byteIn) 4096 0 4 = .ok d := ⟨rfl, _, rfl⟩

theorem test_witness_DecRunFaultsInOrder :
    (bound [0x00] 0).upBound = true ∧ State.reset.upBound = false ∧
    State.reset.caps.byteIn < ({ State.reset with inLen := 4097 } : State).inLen.toNat ∧
    ∃ f, decStream ((reading [0x02] 1).cell .byteIn) 4096 1 1 = .error f := ⟨rfl, rfl, by decide, _, rfl⟩

theorem test_witness_DecoderChecksTheHeader :
    (reads [9] 0).toNat > 8 ∧ (reads [1] 0).toNat < 2 ∧ (reads [2, 1, 0, 0] 0).toNat = 2 ∧
    ∃ r, readCode (reads [2, 1, 0, 0]) (2 + 1) (Cursor.openAt 1 4) = .ok r ∧ r.value ≠ 2 ^ 2 :=
  ⟨by decide, by decide, by decide, _, rfl, by decide⟩

theorem test_witness_DecoderChecksTheHeader_read :
    (reads [2, 1, 4, 0] 0).toNat = 2 ∧
    (∃ r, readCode (reads [2, 1, 4, 0]) (2 + 1) (Cursor.openAt 1 4) = .ok r ∧ r.value = 2 ^ 2) ∧
    ∃ f, readCode (reads [2, 0]) (2 + 1) (Cursor.openAt 1 2) = .error f := ⟨by decide, ⟨_, rfl, rfl⟩, _, rfl⟩

/-- DEC just after the initial CLEAR at `m = 2`, at a sub-block's length byte. -/
def decStart : Dec := ⟨2, 3, 6, [], none, [], Cursor.openAt 0 3⟩

theorem test_witness_DecoderHandlesClearAndEoi :
    (∃ r, readCode (reads [1, 4]) decStart.cb decStart.u = .ok r ∧ r.value = 2 ^ decStart.m) ∧
    (∃ r, readCode (reads [1, 5, 0]) decStart.cb decStart.u = .ok r ∧ r.value = 2 ^ decStart.m + 1 ∧
      ∃ e, closeStream (reads [1, 5, 0]) r.cursor = .ok e) ∧
    (∃ r, readCode (reads [1, 5, 9]) decStart.cb decStart.u = .ok r ∧ r.value = 2 ^ decStart.m + 1 ∧
      ∃ f, closeStream (reads [1, 5, 9]) r.cursor = .error f) :=
  ⟨⟨_, rfl, rfl⟩, ⟨_, rfl, rfl, _, rfl⟩, ⟨_, rfl, rfl, _, rfl⟩⟩

theorem test_witness_DecoderHandlesClearAndEoi_data :
    (∃ r, readCode (reads [1, 3]) decStart.cb decStart.u = .ok r ∧ r.value ≠ 2 ^ decStart.m ∧
      r.value ≠ 2 ^ decStart.m + 1 ∧ ∃ d, { decStart with u := r.cursor }.dataCode 9 r.value r.start = .ok d) ∧
    (∃ r, readCode (reads [1, 6]) decStart.cb decStart.u = .ok r ∧ r.value ≠ 2 ^ decStart.m ∧
      r.value ≠ 2 ^ decStart.m + 1 ∧ ∃ f, { decStart with u := r.cursor }.dataCode 9 r.value r.start = .error f) ∧
    ∃ f, readCode (reads [0]) decStart.cb decStart.u = .error f :=
  ⟨⟨_, rfl, by decide, by decide, _, rfl⟩, ⟨_, rfl, by decide, by decide, _, rfl⟩, _, rfl⟩

/-- DEC after the codes 0 and 6 of D3 (spec/95_test_vectors.md 1.8). -/
def decAfterMiss : Dec := ⟨2, 3, 7, [(6, [0, 0])], some [0, 0], [0, 0, 0], Cursor.openAt 0 3⟩

/-- One value for each clause: full dictionary, above the size, equal to it with NONE, first literal, a literal and a
learned code with a previous sequence, the miss case, and an output that is full. -/
theorem test_witness_DataCodesFollowTheCaseRules :
    { decStart with size := 4096 }.size = 4096 ∧ decStart.size < 7 ∧ decStart.prev = none ∧ (3 : Nat) < 2 ^ decStart.m ∧
    (3 : Nat) < decStart.size ∧ decAfterMiss.prev = some [0, 0] ∧ 6 < decAfterMiss.size ∧
    decAfterMiss.table.lookup 6 = some [0, 0] ∧ decAfterMiss.size = 7 ∧
    decAfterMiss.out.length + [(0 : Byte), 0].length ≤ 5 ∧ 4 < decAfterMiss.out.length + [(0 : Byte), 0].length := by
  decide

theorem test_witness_DecoderKeepsItsRanges :
    decAfterMiss.Inv ∧ (7 : Nat) ≠ 2 ^ decAfterMiss.m ∧ (7 : Nat) ≠ 2 ^ decAfterMiss.m + 1 ∧
    ∃ d, decAfterMiss.dataCode 6 7 3 = .ok d := by
  refine ⟨⟨by decide, by decide, by decide, ?_, ?_⟩, by decide, by decide, _, rfl⟩
  · intro c h1 h2
    obtain rfl : c = 6 := by simp only [firstFree, decAfterMiss] at h1 h2; omega
    exact ⟨_, rfl, by decide, by decide⟩
  · intro p h
    cases h
    decide

theorem test_witness_DecoderKeepsItsRanges_sequence :
    (6 : Nat) < decAfterMiss.size ∧ (6 : Nat) ≠ 2 ^ decAfterMiss.m ∧ (6 : Nat) ≠ 2 ^ decAfterMiss.m + 1 := by decide

theorem test_witness_DecoderLoopEndsByItself :
    1 ≤ decStart.cb ∧ decStart.u.boff ≤ 8 ∧ decStart.u.bitsLeft < 25 := by decide

theorem test_witness_DecoderLoopEndsByItself_fuel :
    (reads [2, 1, 4, 0] 0).toNat = 2 ∧
    ∃ r, readCode (reads [2, 1, 4, 0]) (2 + 1) (Cursor.openAt (0 + 1) 4) = .ok r ∧ r.value = 2 ^ 2 :=
  ⟨by decide, _, rfl, rfl⟩

theorem test_witness_DecRunInvertsEncRun :
    (reading [0xAA, 0x02, 0x02, 0x44, 0x54, 0x00] 1).err = false ∧
    (reading [0xAA, 0x02, 0x02, 0x44, 0x54, 0x00] 1).upBound = false ∧
    ([0, 1, 2] : List Byte) ≠ [] ∧ indicesBelow 2 [0, 1, 2] ∧ (encStream [0, 1, 2] 2).length = 5 ∧
    holdsAt ((reading [0xAA, 0x02, 0x02, 0x44, 0x54, 0x00] 1).cell .byteIn) 1 (encStream [0, 1, 2] 2) := by
  unfold indicesBelow holdsAt
  decide +kernel

theorem test_witness_HardwareResetClearsEverything :
    (facing .hardwareReset latched).inputs = .hardwareReset :: [] := by decide

theorem test_witness_HostReadsReturnTheRegisters :
    (facing (.readReg 0x30) (holding [true])).inputs = .readReg 0x30 :: [] ∧ (holding [true]).pkBits.length < 2 ^ 32 := by
  decide

theorem test_witness_HostReads_errcode :
    (facing (.readReg 0x08) latched).inputs = .readReg 0x08 :: [] ∧ latched.errcode ≠ none ∧
    State.reset.errcode = none := by
  decide

theorem test_witness_StatusBitsAreTheFields : (5 : Nat) ≤ 5 ∧ (5 : Nat) ≤ 31 := by decide

theorem test_witness_ReservedOffsetsReadZeroIgnoreWrites :
    reservedOffset 0x34 ∧ reservedOffset 0x01 ∧ reservedOffset 0xFC ∧ reservedOffset 0x33 ∧ State.reset.busy = false ∧
    (facing (.readReg 0x34) State.reset).inputs = .readReg 0x34 :: [] ∧
    (facing (.writeReg 0x01 5) State.reset).inputs = .writeReg 0x01 5 :: [] := by
  unfold reservedOffset
  decide

theorem test_witness_HostWritesReachThreeRegisters :
    (facing (.writeReg 0x20 5) latched).inputs = .writeReg 0x20 5 :: [] ∧ latched.busy = false ∧
    (0x20 : BitVec 8) ≠ 0x00 := by decide

theorem test_witness_HostCellWritesChangeOneCell :
    (facing (.writeCell .byteIn 4095 9) State.reset).inputs = .writeCell .byteIn 4095 9 :: [] ∧
    State.reset.busy = false ∧ State.reset.upBound = false ∧ 4095 < State.reset.caps.size .byteIn ∧
    4095 < State.reset.caps.size .idxIn ∧ (bound [0x00] 0).upBound = true := by decide

theorem test_witness_HostCellReadsReturnTheLastWrite :
    (facing (.readCell .byteIn 0) (reading [0x3B] 0)).inputs = .readCell .byteIn 0 :: [] ∧
    0 < (reading [0x3B] 0).caps.size .byteIn ∧ Memory.lookup ((reading [0x3B] 0).buf .byteIn) 0 = some 0x3B := by decide

theorem test_witness_EveryStepKeepsTheInvariant :
    wellFormedState.Inv ∧ ∃ t, step wellFormedState = .next t := ⟨test_wellFormedState_inv, _, rfl⟩

theorem test_witness_FrameOfNonStoringCommands :
    (∃ t, exec .pkOpen (holding [true]) = .next t) ∧ (∃ t, exec (.pkAdd 12 5) State.reset = .next t) ∧
    (∃ t, exec .upOpen State.reset = .next t) ∧ (∃ t, exec (.upRead 3) (bound [0x01, 0x07, 0x00] 0) = .next t) ∧
    (∃ t, exec .upClose (bound [0x00] 0) = .next t) := ⟨⟨_, rfl⟩, ⟨_, rfl⟩, ⟨_, rfl⟩, ⟨_, rfl⟩, ⟨_, rfl⟩⟩

theorem test_witness_FrameOfStoringCommands :
    (∃ t, exec (.pkFinish 2) (holding [true]) = .next t) ∧ (∃ t, exec (.encRun 2) (encoding [0]) = .next t) ∧
    (∃ t, exec .decRun (reading [0x02, 0x01, 0x2C, 0x00] 0) = .next t) := ⟨⟨_, rfl⟩, ⟨_, rfl⟩, ⟨_, rfl⟩⟩

theorem test_witness_OnlyResultWritersChangeResult :
    (∃ t, exec (.upRead 3) (bound [0x01, 0x07, 0x00] 0) = .next t ∧ t.result ≠ (bound [0x01, 0x07, 0x00] 0).result) ∧
    (∃ t, exec (.softReset 0) { State.reset with result := 5 } = .next t ∧ t.result ≠ 5) :=
  ⟨⟨_, rfl, by decide⟩, ⟨_, rfl, by decide⟩⟩

theorem test_witness_CommandsLeaveTheInputsAlone :
    (∃ t, exec (.encRun 2) (encoding [0]) = .next t) ∧ ∀ low, Instr.encRun 2 ≠ .softReset low :=
  ⟨⟨_, rfl⟩, fun _ h => by cases h⟩

theorem test_witness_UnboundCursorIsUnobservable :
    State.reset.sameButUnboundCursor { State.reset with up := Cursor.openAt 3 9 } ∧
    (∃ t, exec (.upRead 3) State.reset = .next t) ∧
    ∃ t, exec (.upRead 3) { State.reset with up := Cursor.openAt 3 9 } = .next t :=
  ⟨⟨rfl, rfl, rfl⟩, ⟨_, rfl⟩, ⟨_, rfl⟩⟩

end Sys2Proof.Tests
end

