-- ==== Sys2Proof/Proofs/Scope.lean ====
section
/-! PROOFS. The error latch (spec/60_exceptions.md R236) and the reset state (spec/10_state.md R47). -/

namespace Sys2Proof.Machine

/-! ### The reset state -/

/-- No cell has been written since hardware reset (R76). -/
@[simp] theorem buf_reset (sp : Space) : State.reset.buf sp = [] := by
  cases sp <;> rfl

/-- The capacities the model gives the reset state are among those R6 admits. -/
theorem resetCaps_wf : State.resetCaps.wf = true := by decide

/-- Settles O54: no buffer has a cell, every register and the packer are 0 or empty, and the cursor is unbound. -/
theorem invariantHoldsAtReset : Obligations.InvariantHoldsAtReset where
  caps_ok := resetCaps_wf
  not_busy := rfl
  latch_clear := fun _ => ⟨rfl, rfl, rfl⟩
  latch_set := fun herr => absurd herr Bool.false_ne_true
  mem_wf := fun sp => by rw [buf_reset]; exact List.Pairwise.nil
  mem_in := fun sp c hc => by rw [buf_reset] at hc; exact absurd hc List.not_mem_nil
  out_len_le := Nat.zero_le _
  idx_len_le := Nat.zero_le _
  dec_mcs_ok := .inl rfl
  pk_fits := .inl rfl
  up_ok := fun hbound => absurd hbound Bool.false_ne_true

/-! ### The error latch -/

/-- Settles O12: a latched error keeps the state as it is; a clear latch takes the code, and both numbers exactly, since
each fits its 32-bit register. -/
theorem firstFaultIsLatched : Obligations.FirstFaultIsLatched := by
  intro f s
  refine ⟨raiseFault_latched f, fun hclear hoff hval => ?_⟩
  rw [raiseFault_clear f hclear, regWord_of_lt s.draw hoff, regWord_of_lt s.draw hval]

end Sys2Proof.Machine
end

/-! PROOFS. The state: what a command and a step can do, what they keep (spec/10_state.md, spec/20_memory.md R60 to R71,
spec/60_exceptions.md R236), and the register map (R22 to R36). -/

namespace Sys2Proof.Machine

/-! ### What a command can do -/

/-- The effect of each command but SOFT_RESET when all its checks pass, with the checks a later proof needs. -/
inductive Succeeds (s : State) : Instr → State → Prop where
  | pkOpen : Succeeds s .pkOpen { s with pkBits := [] }
  | pkAdd {w v : Nat} (hfits : flen (s.pkBits.length + w) ≤ s.caps.byteOut) :
      Succeeds s (.pkAdd w v) { s with pkBits := s.pkBits ++ lowBits v w }
  | pkFinish {pre : Nat} (hfits : (frame (BitVec.ofNat 8 pre) s.pkBits).length ≤ s.caps.byteOut) :
      Succeeds s (.pkFinish pre) { emitBytes (frame (BitVec.ofNat 8 pre) s.pkBits) s with pkBits := [] }
  | upOpen (hlen : s.inLen.toNat ≤ s.caps.byteIn) :
      Succeeds s .upOpen { s with upBound := true, up := Cursor.openAt s.inPos.toNat s.inLen.toNat }
  | upRead {w : Nat} {r : CodeRead} (hbound : s.upBound = true) (hread : readCode (s.cell .byteIn) w s.up = .ok r) :
      Succeeds s (.upRead w) { s with up := r.cursor, result := BitVec.ofNat 32 r.value }
  | upClose {e : Nat} (hbound : s.upBound = true) (hclose : closeStream (s.cell .byteIn) s.up = .ok e) :
      Succeeds s .upClose { s with inPos := BitVec.ofNat 32 e, result := BitVec.ofNat 32 e, upBound := false }
  | encRun {mcs : Nat} (hfits : (encStream (encInput s) (clampMcs mcs)).length ≤ s.caps.byteOut) :
      Succeeds s (.encRun mcs)
        { emitBytes (encStream (encInput s) (clampMcs mcs)) s with warnClamp := clampWarning mcs }
  | decRun {d : Decoded}
      (hdec : decStream (s.cell .byteIn) s.caps.idxOut s.inPos.toNat s.inLen.toNat = .ok d) :
      Succeeds s .decRun
        { s with
          idxOut := Memory.writeSeq s.idxOut 0 d.out, idxOutLen := BitVec.ofNat 32 d.out.length
          result := BitVec.ofNat 32 d.out.length, decMcs := BitVec.ofNat 8 d.m, inPos := BitVec.ofNat 32 d.stop }

/-- Everything a command can do: SOFT_RESET always runs; another command is dropped under a latched error, latches a fault
and nothing else, or succeeds (R210, R214, R236). -/
inductive Executes (s : State) : Instr → State → Prop where
  | softReset (low : Nat) : Executes s (.softReset low) (resetRegisters s)
  | dropped {i : Instr} (herr : s.err = true) : Executes s i s
  | faulted {i : Instr} (herr : s.err = false) (f : BlockFault) : Executes s i (raiseFault f s)
  | done {i : Instr} {t : State} (herr : s.err = false) (hdone : Succeeds s i t) : Executes s i t

/-- A command's frame turns what its body can answer into what the command can do. -/
theorem executes_of_command {i : Instr} {s t : State} {body : State → Except BlockFault State}
    (h : command s body = .next t) (hok : ∀ u, body s = .ok u → Succeeds s i u) : Executes s i t := by
  obtain ⟨herr, rfl⟩ | ⟨herr, hbody⟩ | ⟨herr, f, -, rfl⟩ := command_cases h
  · exact .dropped herr
  · exact .done herr (hok t hbody)
  · exact .faulted herr f

theorem executes_of_exec {i : Instr} {s t : State} (h : exec i s = .next t) : Executes s i t := by
  cases i with
  | pkOpen =>
    refine executes_of_command (body := fun s => .ok { s with pkBits := [] }) h fun u hu => ?_
    cases hu
    exact .pkOpen
  | pkAdd w v =>
    refine executes_of_command h fun u hu => ?_
    obtain ⟨-, hfits, rfl⟩ := pkAddBody_ok hu
    exact .pkAdd hfits
  | pkFinish pre =>
    refine executes_of_command h fun u hu => ?_
    obtain ⟨hfits, rfl⟩ := pkFinishBody_ok hu
    exact .pkFinish hfits
  | upOpen =>
    refine executes_of_command h fun u hu => ?_
    obtain ⟨hlen, rfl⟩ := upOpenBody_ok hu
    exact .upOpen hlen
  | upRead w =>
    refine executes_of_command h fun u hu => ?_
    obtain ⟨hbound, -, r, hread, rfl⟩ := upReadBody_ok hu
    exact .upRead hbound hread
  | upClose =>
    refine executes_of_command h fun u hu => ?_
    obtain ⟨hbound, e, hclose, rfl⟩ := upCloseBody_ok hu
    exact .upClose hbound hclose
  | encRun mcs =>
    refine executes_of_command h fun u hu => ?_
    obtain ⟨-, -, -, -, -, hfits, rfl⟩ := encRunBody_ok hu
    exact .encRun hfits
  | decRun =>
    refine executes_of_command h fun u hu => ?_
    obtain ⟨-, -, d, hdec, rfl⟩ := decRunBody_ok hu
    exact .decRun hdec
  | softReset low => cases h; exact .softReset low

/-! ### What a command leaves unchanged -/

theorem Succeeds.err_eq {i : Instr} {s t : State} (h : Succeeds s i t) : t.err = s.err := by
  cases h <;> rfl

/-- No command changes an input buffer, or what is not the block's own state. -/
theorem Executes.keeps_inputs {i : Instr} {s t : State} (h : Executes s i t) :
    t.idxIn = s.idxIn ∧ t.byteIn = s.byteIn ∧ t.caps = s.caps ∧ t.inputs = s.inputs ∧ t.draw = s.draw := by
  cases h with
  | softReset | dropped => exact ⟨rfl, rfl, rfl, rfl, rfl⟩
  | faulted => simp
  | done herr hdone => cases hdone <;> exact ⟨rfl, rfl, rfl, rfl, rfl⟩

@[simp] theorem raiseFault_err (f : BlockFault) (s : State) : (raiseFault f s).err = true := by
  unfold raiseFault
  split
  · assumption
  · rfl

/-- A fault changes the latch alone. -/
theorem raiseFault_withLatchOf (f : BlockFault) (s : State) : raiseFault f s = s.withLatchOf (raiseFault f s) := by
  unfold raiseFault
  split <;> rfl

/-! ### What a step can do -/

/-- Dispatch runs the decoded command, or latches the illegal word. -/
theorem issue_cases {c : Word} {s t : State} (h : issue c s = .next t) :
    (∃ i, decode c = .ok i ∧ Executes s i t) ∨ t = raiseFault (illegalWord c) s := by
  unfold issue at h
  split at h
  · exact .inl ⟨_, ‹_›, executes_of_exec h⟩
  · cases h; exact .inr rfl

theorem endCommand_next {o : Host.Outcome State Fault Refusal} {t : State} (h : endCommand o = .next t) :
    ∃ u, o = .next u ∧ t = u.setBusy false := by
  cases o with
  | next u => cases h; exact ⟨u, rfl, rfl⟩
  | fault | refused => cases h

/-- Everything an action of the outside world can do when the machine does not stop. -/
inductive Performs (s : State) : Input → State → Prop where
  | command {c : Word} {t : State} (hbusy : s.busy = false) (hissue : issue c (s.setBusy true) = .next t) :
      Performs s (.writeReg 0x00 c) (t.setBusy false)
  | writeReg {off : BitVec 8} (v : Word) (hbusy : s.busy = false) (hoff : off ≠ 0x00) :
      Performs s (.writeReg off v) (writeReg off v s)
  | readReg (off : BitVec 8) : Performs s (.readReg off) { s with readData := readReg s off }
  | writeCell {sp : Space} {a : Nat} (v : Byte) (hcell : a < s.caps.size sp) :
      Performs s (.writeCell sp a v) (s.setBuf sp (Memory.write (s.buf sp) a v))
  | readCell {sp : Space} {a : Nat} : Performs s (.readCell sp a) { s with readData := (s.cell sp a).setWidth 32 }
  | hardwareReset : Performs s .hardwareReset (hardwareReset s)

theorem unlessBusy_next {s t : State} {k : State → Host.Outcome State Fault Refusal} (h : unlessBusy s k = .next t) :
    s.busy = false ∧ k s = .next t := by
  unfold unlessBusy at h
  split at h
  · cases h
  · exact ⟨by simpa using ‹¬s.busy = true›, h⟩

theorem storeCell_next {sp : Space} {a : Nat} {v : Byte} {s t : State} (h : storeCell sp a v s = .next t) :
    Performs s (.writeCell sp a v) t := by
  unfold storeCell at h
  split at h <;> cases h
  exact .writeCell v ‹_›

theorem hostWriteCell_next {sp : Space} {a : Nat} {v : Byte} {s t : State} (h : hostWriteCell sp a v s = .next t) :
    Performs s (.writeCell sp a v) t := by
  unfold hostWriteCell at h
  split at h
  · exact storeCell_next h
  · split at h
    · cases h
    · exact storeCell_next h
  · cases h
  · cases h

theorem performs_of_perform {i : Input} {s t : State} (h : perform i s = .next t) : Performs s i t := by
  cases i with
  | writeReg off v =>
    obtain ⟨hbusy, hwrite⟩ := unlessBusy_next h
    unfold hostWriteReg at hwrite
    split at hwrite
    · subst off
      obtain ⟨u, hissue, rfl⟩ := endCommand_next hwrite
      exact .command hbusy hissue
    · cases hwrite; exact .writeReg v hbusy ‹_›
  | readReg off => cases h; exact .readReg off
  | writeCell sp a v => exact hostWriteCell_next (unlessBusy_next h).2
  | readCell sp a =>
    simp only [perform, hostReadCell] at h
    split at h <;> cases h
    exact .readCell
  | hardwareReset => cases h; exact .hardwareReset

/-- Everything a step can do: keep the state when there is no input, or perform the first one. -/
theorem step_cases {s t : State} (h : step s = .next t) :
    (s.inputs = [] ∧ t = s) ∨ ∃ i rest, s.inputs = i :: rest ∧ Performs (s.takeInput rest) i t := by
  cases hin : s.inputs with
  | nil => rw [step_idle hin] at h; cases h; exact .inl ⟨rfl, rfl⟩
  | cons i rest => rw [step_input hin] at h; exact .inr ⟨i, rest, rfl, performs_of_perform h⟩

end Sys2Proof.Machine

/-! ### The decoder (spec/43_lzw_decoder.md R183 to R192) -/

namespace Sys2Proof.Machine

@[simp] theorem Dec.learn_size (d : Dec) (s : List Byte) : (d.learn s).size = d.size + 1 := rfl
@[simp] theorem Dec.learn_table (d : Dec) (s : List Byte) : (d.learn s).table = (d.size, s) :: d.table := rfl

/-- The width after a data code (R190) is the only thing a width update changes. -/
theorem Dec.widthUpdate_eq (d : Dec) : d.widthUpdate = { d with cb := grownWidth d.size d.cb } := by
  unfold Dec.widthUpdate grownWidth
  split <;> rfl

/-- Everything the resolution of a data code can do when it does not fault (R187, R188): a stored sequence with nothing or
with an entry learned, or the sequence of the very code that is learned now. -/
theorem Dec.resolve_ok {d d1 : Dec} {c st : Nat} {s : List Byte} (h : d.resolve c st = .ok (s, d1)) :
    (c < d.size ∧ s = d.sequence c ∧ d.prev = none ∧ d1 = d) ∨
    (c < d.size ∧ s = d.sequence c ∧ ∃ p, d.prev = some p ∧ d1 = d.learn (p ++ s.take 1)) ∨
    (∃ p, d.prev = some p ∧ s = p ++ p.take 1 ∧ d1 = d.learn s) := by
  unfold Dec.resolve at h
  split at h
  · split at h <;> cases h
    · exact .inl ⟨‹_›, rfl, ‹_›, rfl⟩
    · exact .inr (.inl ⟨‹_›, rfl, _, ‹_›, rfl⟩)
  · split at h
    · split at h <;> cases h
      exact .inr (.inr ⟨_, ‹_›, rfl, rfl⟩)
    · cases h

/-- Everything a data code can do when it does not fault (R184, R190, R192). -/
theorem Dec.dataCode_ok {cap c st : Nat} {d d' : Dec} (h : d.dataCode cap c st = .ok d') :
    d.size ≠ 4096 ∧ ∃ s d1, d.resolve c st = .ok (s, d1) ∧ d.out.length + s.length ≤ cap ∧
      d' = { d1 with out := d1.out ++ s, prev := some s, cb := grownWidth d1.size d1.cb } := by
  unfold Dec.dataCode at h
  split at h
  · cases h
  · rename_i hsize
    split at h
    · cases h
    · rename_i s d1 hres
      split at h <;> cases h
      exact ⟨hsize, s, d1, hres, by omega, Dec.widthUpdate_eq _⟩

/-- A resolution keeps the code size and the output. -/
theorem Dec.resolve_keeps {d d1 : Dec} {c st : Nat} {s : List Byte} (h : d.resolve c st = .ok (s, d1)) :
    d1.m = d.m ∧ d1.out = d.out := by
  obtain ⟨-, -, -, rfl⟩ | ⟨-, -, p, -, rfl⟩ | ⟨p, -, -, rfl⟩ := Dec.resolve_ok h <;> exact ⟨rfl, rfl⟩

/-! ### What an accepted stream gives -/

/-- The loop keeps the code size, and its output within the capacity (R184 item 5). -/
theorem decLoop_ok {rd : Nat → Byte} {cap fuel : Nat} {d : Dec} {r : Decoded} (h : decLoop rd cap fuel d = .ok r)
    (hout : d.out.length ≤ cap) : r.m = d.m ∧ r.out.length ≤ cap := by
  induction fuel generalizing d with
  | zero => cases h
  | succ fuel ih =>
    rw [decLoop] at h
    split at h
    · cases h
    · simp only at h
      split at h
      · have hloop := ih h hout
        exact hloop
      · split at h
        · split at h <;> cases h
          exact ⟨rfl, hout⟩
        · split at h
          · cases h
          · rename_i d2 hdata
            obtain ⟨-, s, d1, hres, hlen, rfl⟩ := Dec.dataCode_ok hdata
            obtain ⟨hm, hd1⟩ := Dec.resolve_keeps hres
            obtain ⟨hrm, hrout⟩ := ih h (by simpa [hd1] using hlen)
            exact ⟨hrm.trans hm, hrout⟩

/-- An accepted stream has a legal code size (R181) and an output that fits (R191). -/
theorem decStream_ok {rd : Nat → Byte} {cap p n : Nat} {r : Decoded} (h : decStream rd cap p n = .ok r) :
    2 ≤ r.m ∧ r.m ≤ 8 ∧ r.out.length ≤ cap := by
  unfold decStream at h
  split at h
  · cases h
  · simp only at h
    split at h
    · cases h
    · rename_i hm
      split at h
      · cases h
      · split at h
        · cases h
        · obtain ⟨hrm, hout⟩ := decLoop_ok h (Nat.zero_le cap)
          simp only [Config.mcsMin, Config.mcsMax] at hm hrm
          exact ⟨by omega, by omega, hout⟩

/-! ### The decoder's ranges (R43, R196) -/

/-- CLEAR, EOI and the literals leave the first width at least one free code (R87, R153). -/
theorem firstFree_lt_two_pow {m : Nat} (h2 : 2 ≤ m) : firstFree m < 2 ^ (m + 1) := by
  have hpow : 2 ^ 2 ≤ 2 ^ m := Nat.pow_le_pow_right (by decide) h2
  simp only [firstFree, Nat.pow_succ]
  omega

theorem Dec.start_inv {m : Nat} (h2 : 2 ≤ m) (h8 : m ≤ 8) (u : Cursor) :
    Dec.Inv { m := m, cb := m + 1, size := 2 ^ m + 2, table := [], prev := none, out := [], u := u } where
  m_ok := ⟨h2, h8⟩
  cb_ok := ⟨le_rfl, by simp only; omega⟩
  size_ok := ⟨le_rfl, .inl (firstFree_lt_two_pow h2)⟩
  table_ok := fun c hfree hsize => absurd hsize (Nat.not_lt.2 hfree)
  prev_ok := fun p hp => by cases hp

theorem Dec.Inv.move {d : Dec} (h : d.Inv) (u : Cursor) : Dec.Inv { d with u := u } := { h with }

theorem Dec.Inv.clear {d : Dec} (h : d.Inv) : d.clear.Inv :=
  { Dec.start_inv h.m_ok.1 h.m_ok.2 d.u with }

/-- A data code below the size is a literal, or learned with a non-empty sequence of bounded length. -/
theorem Dec.Inv.sequence_cases {d : Dec} (h : d.Inv) {c : Nat} (hc : c < d.size) (hclear : c ≠ 2 ^ d.m)
    (heoi : c ≠ 2 ^ d.m + 1) :
    (c < 2 ^ d.m ∧ d.sequence c = [BitVec.ofNat 8 c]) ∨
      firstFree d.m ≤ c ∧ ∃ x seq, d.table.lookup c = some (x :: seq) ∧ d.sequence c = x :: seq ∧
        (x :: seq).length ≤ c - firstFree d.m + 2 := by
  by_cases hlit : c < 2 ^ d.m
  · exact .inl ⟨hlit, by simp [Dec.sequence, clearCode, hlit]⟩
  · have hfree : firstFree d.m ≤ c := by simp only [firstFree]; omega
    obtain ⟨s, hs, hpos, hlen⟩ := h.table_ok c hfree hc
    obtain ⟨x, seq, rfl⟩ := List.exists_cons_of_length_pos hpos
    exact .inr ⟨hfree, x, seq, hs, by simp [Dec.sequence, clearCode, hlit, hs], hlen⟩

/-- The width a data code leaves is legal, and the size is below what it holds but for a full dictionary (R190, R191). -/
theorem grownWidth_holds {size cb : Nat} (hcb : cb ≤ 12) (hsize : size ≤ 2 ^ cb) :
    cb ≤ grownWidth size cb ∧ grownWidth size cb ≤ 12 ∧
      (size < 2 ^ grownWidth size cb ∨ size = 4096 ∧ grownWidth size cb = 12) := by
  unfold grownWidth
  split
  · rename_i hgrow
    have hpos := Nat.two_pow_pos cb
    have hpow : 2 ^ (cb + 1) = 2 * 2 ^ cb := Nat.pow_succ'
    omega
  · rename_i hstay
    refine ⟨le_rfl, hcb, ?_⟩
    obtain hlt | heq := Nat.lt_or_eq_of_le hsize
    · exact .inl hlt
    · obtain rfl : cb = 12 := by omega
      exact .inr ⟨heq, rfl⟩

theorem Dec.Inv.size_le {d : Dec} (h : d.Inv) : d.size ≤ 2 ^ d.cb := by
  obtain hlt | ⟨hfull, hcb⟩ := h.size_ok.2
  · exact hlt.le
  · rw [hfull, hcb]; decide

/-- What a resolved data code gives: a non-empty sequence, and nothing learned or one non-empty entry, each with R196's
length bound. -/
theorem Dec.Inv.resolve {d d1 : Dec} {c st : Nat} {s : List Byte} (h : d.Inv) (hclear : c ≠ 2 ^ d.m)
    (heoi : c ≠ 2 ^ d.m + 1) (hok : d.resolve c st = .ok (s, d1)) :
    1 ≤ s.length ∧ s.length ≤ d1.size - firstFree d.m + 1 ∧
      (d1 = d ∨ ∃ q, d1 = d.learn q ∧ 1 ≤ q.length ∧ q.length ≤ d.size - firstFree d.m + 2) := by
  have hfree := h.size_ok.1
  have hstored : c < d.size → 1 ≤ (d.sequence c).length ∧ (d.sequence c).length ≤ d.size - firstFree d.m + 1 := by
    intro hc
    obtain ⟨-, hs⟩ | ⟨hlearned, x, seq, -, hs, hlen⟩ := h.sequence_cases hc hclear heoi <;> rw [hs]
    · simp
    · simp only [List.length_cons] at hlen ⊢; omega
  obtain ⟨hc, rfl, -, rfl⟩ | ⟨hc, rfl, p, hp, rfl⟩ | ⟨p, hp, rfl, rfl⟩ := Dec.resolve_ok hok
  · exact ⟨(hstored hc).1, (hstored hc).2, .inl rfl⟩
  · have hs := hstored hc
    have hlen := h.prev_ok p hp
    refine ⟨hs.1, by rw [Dec.learn_size]; omega, .inr ⟨_, rfl, ?_⟩⟩
    simp only [List.length_append, List.length_take]; omega
  · have hlen := h.prev_ok p hp
    have hq : (p ++ p.take 1).length = p.length + 1 := by
      simp only [List.length_append, List.length_take]; omega
    exact ⟨by omega, by rw [Dec.learn_size]; omega, .inr ⟨_, rfl, by omega, by omega⟩⟩

/-- An entry learned under the next code keeps every learned code stored. -/
theorem Dec.Inv.table_learn {d : Dec} (h : d.Inv) {q : List Byte} (hpos : 1 ≤ q.length)
    (hlen : q.length ≤ d.size - firstFree d.m + 2) (c : Nat) (hfree : firstFree d.m ≤ c) (hc : c < d.size + 1) :
    ∃ s, (d.learn q).table.lookup c = some s ∧ 1 ≤ s.length ∧ s.length ≤ c - firstFree d.m + 2 := by
  rw [Dec.learn_table]
  obtain hlt | rfl := Nat.lt_or_eq_of_le (Nat.le_of_lt_succ hc)
  · rw [List.lookup_cons, beq_eq_false_iff_ne.2 hlt.ne]
    exact h.table_ok c hfree hlt
  · exact ⟨q, List.lookup_cons_self, hpos, hlen⟩

/-- R43, R196: a data code keeps the ranges, and what it outputs has R196's length bound. -/
theorem Dec.Inv.dataCode {cap c st : Nat} {d d' : Dec} (h : d.Inv) (hclear : c ≠ 2 ^ d.m) (heoi : c ≠ 2 ^ d.m + 1)
    (hok : d.dataCode cap c st = .ok d') :
    d'.Inv ∧ d'.m = d.m ∧ ∃ s, d'.out = d.out ++ s ∧ d'.prev = some s := by
  obtain ⟨hfull, s, d1, hres, -, rfl⟩ := Dec.dataCode_ok hok
  obtain ⟨hm, hout⟩ := Dec.resolve_keeps hres
  obtain ⟨hpos, hlen, hd1⟩ := h.resolve hclear heoi hres
  have hsize := h.size_le
  have hroom : d.size < 2 ^ d.cb := h.size_ok.2.resolve_right fun hbad => hfull hbad.1
  refine ⟨?_, hm, s, by rw [hout], rfl⟩
  obtain rfl | ⟨q, rfl, hq, hqlen⟩ := hd1
  · obtain ⟨hge, hle, hholds⟩ := grownWidth_holds h.cb_ok.2 hsize
    exact { h with
      cb_ok := ⟨h.cb_ok.1.trans hge, hle⟩
      size_ok := ⟨h.size_ok.1, hholds⟩
      prev_ok := fun p hp => by cases hp; exact ⟨hpos, hlen⟩ }
  · obtain ⟨hge, hle, hholds⟩ := grownWidth_holds (size := d.size + 1) h.cb_ok.2 hroom
    exact {
      m_ok := h.m_ok
      cb_ok := ⟨h.cb_ok.1.trans hge, hle⟩
      size_ok := ⟨h.size_ok.1.trans (Nat.le_succ _), hholds⟩
      table_ok := h.table_learn hq hqlen
      prev_ok := fun p hp => by cases hp; exact ⟨hpos, hlen⟩ }

/-- R196: the previous sequence is never longer than `4095 - 2^m`. -/
theorem Dec.Inv.prev_length {d : Dec} (h : d.Inv) {p : List Byte} (hp : d.prev = some p) :
    1 ≤ p.length ∧ p.length ≤ 4095 - 2 ^ d.m := by
  obtain ⟨hpos, hlen⟩ := h.prev_ok p hp
  have hsize : d.size ≤ 2 ^ 12 := h.size_le.trans (Nat.pow_le_pow_right (by decide) h.cb_ok.2)
  have hfree := h.size_ok.1
  simp only [firstFree] at hlen hfree
  omega

/-- Settles O42: the ranges hold of R183's dictionary and each data code keeps them, since what it learns extends the
previous sequence by one index. -/
theorem decoderKeepsItsRanges : Obligations.DecoderKeepsItsRanges := by
  refine ⟨fun m u h2 h8 => Dec.start_inv h2 h8 u, fun d u h => ⟨h.move u, (h.move u).clear⟩, ?_, ?_⟩
  · intro d c h hc hclear heoi
    obtain hlit | ⟨-, x, seq, hlookup, hs, -⟩ := h.sequence_cases hc hclear heoi
    · exact .inl hlit
    · exact .inr ⟨x, seq, hlookup, hs⟩
  · intro cap d d' c st h hclear heoi hok
    obtain ⟨hinv, hm, s, hout, hprev⟩ := h.dataCode hclear heoi hok
    exact ⟨hinv, hm, s, hout, hprev, hm ▸ hinv.prev_length hprev⟩

end Sys2Proof.Machine

/-! ### The encoder (spec/42_lzw_encoder.md R152 to R159) -/

namespace Sys2Proof.Machine

theorem Enc.start_eq (m : Nat) : Enc.start m = ⟨m, m + 1, 2 ^ m + 2, [], none, [(2 ^ m, m + 1)]⟩ := rfl

/-- The first index of a segment only starts the running sequence (R154). -/
theorem Enc.consume_first {e : Enc} (x : Byte) (hbuf : e.buf = none) : e.consume x = { e with buf := some x.toNat } := by
  simp [Enc.consume, hbuf]

/-- A hit only extends the running sequence (R154). -/
theorem Enc.consume_hit {e : Enc} {x : Byte} {b c : Nat} (hbuf : e.buf = some b)
    (hhit : e.dict.lookup (b, x) = some c) : e.consume x = { e with buf := some c } := by
  simp [Enc.consume, hbuf, hhit]

theorem Enc.consume_miss {e : Enc} {x : Byte} {b : Nat} (hbuf : e.buf = some b)
    (hmiss : e.dict.lookup (b, x) = none) : e.consume x = e.miss b x := by
  simp [Enc.consume, hbuf, hmiss]

/-- What a miss and the final flush have in common: the running code `b` is emitted, the next free code is assigned over
the entries `dict`, and the width follows (R155, R156, R158). -/
def Enc.assign (e : Enc) (b : Nat) (dict : List ((Nat × Byte) × Nat)) : Enc :=
  { e.emit b e.cb with dict := dict, nf := e.nf + 1 }.widthUpdate e.nf

theorem Enc.miss_eq (e : Enc) (b : Nat) (x : Byte) :
    e.miss b x = { e.assign b (((b, x), e.nf) :: e.dict) with buf := some x.toNat } := rfl

theorem Enc.flush_eq {e : Enc} {b : Nat} (hbuf : e.buf = some b) : e.flush = e.assign b e.dict := by
  unfold Enc.flush
  rw [hbuf]
  rfl

/-- An assigned code below `2^cb` leaves the width alone (R156). -/
theorem Enc.assign_below {e : Enc} (b : Nat) (dict : List ((Nat × Byte) × Nat)) (hnf : e.nf ≠ 2 ^ e.cb) :
    e.assign b dict = { e with emitted := e.emitted ++ [(b, e.cb)], dict := dict, nf := e.nf + 1 } := by
  simp [Enc.assign, Enc.widthUpdate, hnf, Enc.emit]

/-- The assigned code `2^cb` makes the width grow (R156). -/
theorem Enc.assign_grows {e : Enc} (b : Nat) (dict : List ((Nat × Byte) × Nat)) (hnf : e.nf = 2 ^ e.cb)
    (hcb : e.cb < 12) :
    e.assign b dict =
      { e with emitted := e.emitted ++ [(b, e.cb)], dict := dict, nf := e.nf + 1, cb := e.cb + 1 } := by
  simp [Enc.assign, Enc.widthUpdate, hnf, Enc.emit, Nat.not_le.2 hcb]

/-- The assigned code `2^12` emits a CLEAR and resets the dictionary (R157). -/
theorem Enc.assign_clears {e : Enc} (b : Nat) (dict : List ((Nat × Byte) × Nat)) (hnf : e.nf = 2 ^ e.cb)
    (hcb : e.cb = 12) :
    e.assign b dict =
      { e with
        emitted := e.emitted ++ [(b, 12), (2 ^ e.m, 12)], dict := [], nf := 2 ^ e.m + 2, cb := e.m + 1 } := by
  simp [Enc.assign, Enc.widthUpdate, hnf, Enc.emit, hcb, Enc.overflowClear, Enc.clear, clearCode, firstFree]

/-! ### The encoder's ranges (R42, R164) -/

theorem Enc.start_inv {m : Nat} (h2 : 2 ≤ m) (h8 : m ≤ 8) : (Enc.start m).Inv where
  m_ok := ⟨h2, h8⟩
  cb_ok := ⟨le_rfl, Nat.succ_le_succ (h8.trans (by decide))⟩
  nf_ok := ⟨le_rfl, (firstFree_lt_two_pow h2).le⟩
  dict_ok := fun k hk => by cases hk
  buf_ok := fun b hb => by cases hb
  emitted_ok := fun cw hcw => by
    rw [Enc.start_eq, List.mem_singleton] at hcw
    subst hcw
    exact ⟨Nat.pow_lt_pow_right (by decide) (Nat.lt_succ_self m), le_rfl, Nat.succ_le_succ (h8.trans (by decide))⟩

/-- The running code may become any data code below the next free one. -/
theorem Enc.Inv.restart {e : Enc} (h : Enc.Inv { e with buf := none }) {b : Nat} (hdata : isDataCode e.m b)
    (hb : b < e.nf) : Enc.Inv { e with buf := some b } :=
  { h with buf_ok := fun b' hb' => by cases hb'; exact ⟨hdata, hb⟩ }

theorem Enc.Inv.restart_literal {e : Enc} (h : Enc.Inv { e with buf := none }) {x : Byte} (hx : x.toNat < 2 ^ e.m) :
    Enc.Inv { e with buf := some x.toNat } := by
  have hfree := h.nf_ok.1
  simp only [firstFree] at hfree
  exact h.restart (.inl hx) (by omega)

/-- The ranges but for the running code, which a miss and the flush replace, are kept when a code is assigned. -/
theorem Enc.Inv.assign {e : Enc} (h : e.Inv) {b : Nat} (hbuf : e.buf = some b) {dict : List ((Nat × Byte) × Nat)}
    (hdict : ∀ k ∈ dict, firstFree e.m ≤ k.2 ∧ k.2 < e.nf + 1) :
    Enc.Inv { e.assign b dict with buf := none } := by
  obtain ⟨hm2, hm8⟩ := h.m_ok
  obtain ⟨hcb, hcb12⟩ := h.cb_ok
  obtain ⟨hfree, hnf⟩ := h.nf_ok
  have hb : ∀ cw ∈ [(b, e.cb)], cw.1 < 2 ^ cw.2 ∧ e.m + 1 ≤ cw.2 ∧ cw.2 ≤ 12 := by
    intro cw hcw
    rw [List.mem_singleton] at hcw
    subst hcw
    exact ⟨(h.buf_ok b hbuf).2.trans_le hnf, hcb, hcb12⟩
  have hemitted := List.forall_mem_append.2 ⟨h.emitted_ok, hb⟩
  by_cases htop : e.nf = 2 ^ e.cb
  · obtain hlt | hceil := Nat.lt_or_eq_of_le hcb12
    · rw [Enc.assign_grows b dict htop hlt]
      have hpow : 2 ^ (e.cb + 1) = 2 * 2 ^ e.cb := Nat.pow_succ'
      have hpos := Nat.two_pow_pos e.cb
      exact {
        m_ok := h.m_ok
        cb_ok := ⟨hcb.trans (Nat.le_succ _), hlt⟩
        nf_ok := ⟨hfree.trans (Nat.le_succ _), by simp only; omega⟩
        dict_ok := hdict
        buf_ok := fun b' hb' => by cases hb'
        emitted_ok := hemitted }
    · rw [Enc.assign_clears b dict htop hceil]
      have hclear : ∀ cw ∈ [(2 ^ e.m, 12)], cw.1 < 2 ^ cw.2 ∧ e.m + 1 ≤ cw.2 ∧ cw.2 ≤ 12 := by
        intro cw hcw
        rw [List.mem_singleton] at hcw
        subst hcw
        exact ⟨Nat.pow_lt_pow_right (by decide) (by omega), by omega, le_rfl⟩
      exact {
        m_ok := h.m_ok
        cb_ok := ⟨le_rfl, by simp only; omega⟩
        nf_ok := ⟨le_rfl, (firstFree_lt_two_pow hm2).le⟩
        dict_ok := fun k hk => by cases hk
        buf_ok := fun b' hb' => by cases hb'
        emitted_ok := by
          have hboth := List.forall_mem_append.2 ⟨hemitted, hclear⟩
          rwa [hceil, List.append_assoc] at hboth }
  · rw [Enc.assign_below b dict htop]
    exact {
      m_ok := h.m_ok
      cb_ok := h.cb_ok
      nf_ok := ⟨hfree.trans (Nat.le_succ _), by simp only; omega⟩
      dict_ok := hdict
      buf_ok := fun b' hb' => by cases hb'
      emitted_ok := hemitted }

@[simp] theorem Enc.assign_m (e : Enc) (b : Nat) (dict : List ((Nat × Byte) × Nat)) : (e.assign b dict).m = e.m :=
  Enc.widthUpdate_m _ _

/-- Every learned entry is a data code (R87). -/
theorem Enc.Inv.learned_data {e : Enc} (h : e.Inv) {k : (Nat × Byte) × Nat} (hk : k ∈ e.dict) :
    isDataCode e.m k.2 ∧ k.2 < e.nf := by
  obtain ⟨hfree, hnf⟩ := h.dict_ok k hk
  have htop : 2 ^ e.cb ≤ 2 ^ 12 := Nat.pow_le_pow_right (by decide) h.cb_ok.2
  have hle := h.nf_ok.2
  exact ⟨.inr ⟨hfree, by omega⟩, hnf⟩

/-- R42: one input index below `2^m` keeps the ranges. -/
theorem Enc.Inv.consume {e : Enc} (h : e.Inv) {x : Byte} (hx : x.toNat < 2 ^ e.m) : (e.consume x).Inv := by
  have hnone : Enc.Inv { e with buf := none } := { h with buf_ok := fun b hb => by cases hb }
  cases hbuf : e.buf with
  | none => rw [Enc.consume_first x hbuf]; exact hnone.restart_literal hx
  | some b =>
    cases hlookup : e.dict.lookup (b, x) with
    | some c =>
      obtain ⟨l₁, l₂, hsplit, -⟩ := List.lookup_eq_some_iff.1 hlookup
      have hmem : ((b, x), c) ∈ e.dict := by simp [hsplit]
      obtain ⟨hdata, hc⟩ := h.learned_data hmem
      rw [Enc.consume_hit hbuf hlookup]
      exact hnone.restart hdata hc
    | none =>
      rw [Enc.consume_miss hbuf hlookup, Enc.miss_eq]
      refine Enc.Inv.restart_literal (h.assign hbuf (List.forall_mem_cons.2 ⟨?_, fun k hk => ?_⟩)) (by simpa using hx)
      · exact ⟨h.nf_ok.1, Nat.lt_succ_self _⟩
      · exact ⟨(h.dict_ok k hk).1, (h.dict_ok k hk).2.trans (Nat.lt_succ_self _)⟩

theorem Enc.Inv.foldl_consume {e : Enc} (h : e.Inv) {xs : List Byte} (hxs : indicesBelow e.m xs) :
    (xs.foldl Enc.consume e).Inv := by
  induction xs generalizing e with
  | nil => exact h
  | cons x xs ih =>
    obtain ⟨hx, hrest⟩ := List.forall_mem_cons.1 hxs
    exact ih (h.consume hx) (by rw [Enc.consume_m]; exact hrest)

/-- The final flush keeps every range but that of the running code, which no step reads after it. -/
theorem Enc.Inv.flush {e : Enc} (h : e.Inv) : Enc.Inv { e.flush with buf := none } := by
  cases hbuf : e.buf with
  | none =>
    simp only [Enc.flush, hbuf]
    exact { h with buf_ok := fun b hb => by cases hb }
  | some b =>
    rw [Enc.flush_eq hbuf]
    exact h.assign hbuf fun k hk => ⟨(h.dict_ok k hk).1, (h.dict_ok k hk).2.trans (Nat.lt_succ_self _)⟩

/-- The whole run: the emitted codes of the flushed encoder, then EOI at its width (R159, R163). -/
theorem encCodes_eq (xs : List Byte) (m : Nat) :
    encCodes xs m =
      (xs.foldl Enc.consume (Enc.start m)).flush.emitted ++
        [(2 ^ m + 1, (xs.foldl Enc.consume (Enc.start m)).flush.cb)] := by
  simp [encCodes, Enc.finish, eoiCode, Enc.start]

/-- R164: every code of a whole run fits its width, which is in [m+1, 12]. -/
theorem encCodes_fit {m : Nat} {xs : List Byte} (h2 : 2 ≤ m) (h8 : m ≤ 8) (hxs : indicesBelow m xs) :
    ∀ cw ∈ encCodes xs m, cw.1 < 2 ^ cw.2 ∧ m + 1 ≤ cw.2 ∧ cw.2 ≤ 12 := by
  have hrun := ((Enc.start_inv h2 h8).foldl_consume hxs).flush
  have hm : (xs.foldl Enc.consume (Enc.start m)).flush.m = m := by
    rw [Enc.flush_m, Enc.foldl_consume_m, Enc.start_eq]
  obtain ⟨hcb, hcb12⟩ := hrun.cb_ok
  have hemitted := hrun.emitted_ok
  simp only [hm] at hcb hcb12 hemitted
  have heoi : 2 ^ m + 1 < 2 ^ (m + 1) := (Nat.lt_succ_self _).trans (firstFree_lt_two_pow h2)
  rw [encCodes_eq]
  refine List.forall_mem_append.2 ⟨hemitted, fun cw hcw => ?_⟩
  rw [List.mem_singleton] at hcw
  subst hcw
  exact ⟨heoi.trans_le (Nat.pow_le_pow_right (by decide) hcb), hcb, hcb12⟩

/-- Settles O33: a miss and the flush assign a code in the same three cases, and each keeps the ranges. -/
theorem encoderKeepsItsRanges : Obligations.EncoderKeepsItsRanges := by
  refine ⟨Enc.start_eq, fun e x hbuf => Enc.consume_first x hbuf, fun e x b c hbuf hhit => Enc.consume_hit hbuf hhit,
    fun e x b hbuf hmiss => ?_, fun e b hbuf => ?_, fun m xs e _ he => ?_, fun m h2 h8 => Enc.start_inv h2 h8,
    fun e x h hx => h.consume hx, fun m xs h2 h8 _ hxs => encCodes_fit h2 h8 hxs⟩
  · rw [Enc.consume_miss hbuf hmiss, Enc.miss_eq]
    exact ⟨fun hnf => by rw [Enc.assign_below _ _ hnf], fun hnf hcb => by rw [Enc.assign_grows _ _ hnf hcb],
      fun hnf hcb => by rw [Enc.assign_clears _ _ hnf hcb]⟩
  · rw [Enc.flush_eq hbuf]
    exact ⟨Enc.assign_below b e.dict, Enc.assign_grows b e.dict, Enc.assign_clears b e.dict⟩
  · subst he
    exact ⟨encCodes_eq xs m, rfl⟩

end Sys2Proof.Machine

/-! ### The invariant of State -/

namespace Sys2Proof.Machine

/-! #### The cursor (R41) -/

theorem Cursor.openAt_inv {cap pos len : Nat} (hpos : pos < 2 ^ 32) (hlen : len ≤ cap) :
    (Cursor.openAt pos len).Inv cap where
  len_le := hlen
  pos_lt := hpos
  rem_le := Nat.zero_le _
  boff_le := le_rfl
  curpos_lt := hpos
  unread := fun h => absurd h (lt_irrefl 8)

/-- A bit that is read keeps the cursor's ranges: a byte is consumed only below the latched length. -/
theorem Cursor.Inv.nextBit {rd : Nat → Byte} {cap : Nat} {u v : Cursor} {b : Bool} (h : u.Inv cap) (hcap : cap < 2 ^ 32)
    (hbit : nextBit rd u = .ok (b, v)) : v.Inv cap := by
  obtain ⟨hlen, hpos, hrem, hboff, hcurpos, hunread⟩ := h
  obtain ⟨u1, hfetch, -, rfl⟩ := nextBit_ok hbit
  obtain ⟨h8, rfl⟩ | ⟨-, -, hlt, rfl⟩ | ⟨-, -, hlt, -, rfl⟩ := fetchByte_ok hfetch
  · exact ⟨hlen, hpos, hrem, by simp only; omega, hcurpos, fun _ => hunread (by omega)⟩
  · exact ⟨hlen, by simp only; omega, by simp only; omega, by simp only; omega, hpos, fun _ => ⟨rfl, hlt⟩⟩
  · have hbyte := (rd u.pos).isLt
    exact ⟨hlen, by simp only; omega, by simp only; omega, by simp only; omega, by simp only; omega, fun _ => ⟨rfl, hlt⟩⟩

theorem Cursor.Inv.readValue {rd : Nat → Byte} {cap w x : Nat} {u v : Cursor} (h : u.Inv cap) (hcap : cap < 2 ^ 32)
    (hread : readValue rd w u = .ok (x, v)) : v.Inv cap := by
  induction w generalizing u x v with
  | zero => cases hread; exact h
  | succ w ih =>
    rw [Machine.readValue] at hread
    split at hread
    · cases hread
    · split at hread <;> cases hread
      exact ih (h.nextBit hcap ‹_›) ‹_›

theorem Cursor.Inv.readCode {rd : Nat → Byte} {cap w : Nat} {u : Cursor} {r : CodeRead} (h : u.Inv cap)
    (hcap : cap < 2 ^ 32) (hread : readCode rd w u = .ok r) : r.cursor.Inv cap := by
  cases w with
  | zero => cases hread; exact h
  | succ w =>
    obtain ⟨b, u1, x, hbit, hrest, -, -⟩ := readCode_ok hread
    exact (h.nextBit hcap hbit).readValue hcap hrest

/-! #### Single updates -/

theorem byteIn_lt_of_wf {c : Config.Capacities} (h : c.wf = true) : c.byteIn < 2 ^ 32 := by
  simp only [Config.Capacities.wf, Bool.and_eq_true, decide_eq_true_eq] at h
  exact h.1.2.2

/-- A register that holds a length holds no more than the length. -/
theorem toNat_ofNat_le {w n cap : Nat} (h : n ≤ cap) : (BitVec.ofNat w n).toNat ≤ cap := by
  rw [BitVec.toNat_ofNat]
  exact (Nat.mod_le n _).trans h

/-- One buffer may be replaced by one that is canonical and within its capacity. -/
theorem State.Inv.setBuf {s : State} (h : s.Inv) {sp : Space} {m : Memory} (hwf : Memory.wf m)
    (hin : ∀ c ∈ m, c.1 < s.caps.size sp) : (s.setBuf sp m).Inv := by
  have hbuf : ∀ sp', Memory.wf ((s.setBuf sp m).buf sp') ∧
      ∀ c ∈ (s.setBuf sp m).buf sp', c.1 < s.caps.size sp' := by
    intro sp'
    by_cases heq : sp' = sp
    · rw [heq, buf_setBuf]; exact ⟨hwf, hin⟩
    · rw [buf_setBuf_ne s heq]; exact ⟨h.mem_wf sp', h.mem_in sp'⟩
  cases sp <;> exact { h with mem_wf := fun sp' => (hbuf sp').1, mem_in := fun sp' => (hbuf sp').2 }

/-- A run of cells from cell 0 may be written when it fits the buffer. -/
theorem State.Inv.setBuf_writeSeq {s : State} (h : s.Inv) {sp : Space} {bytes : List Byte}
    (hfits : bytes.length ≤ s.caps.size sp) : (s.setBuf sp (Memory.writeSeq (s.buf sp) 0 bytes)).Inv :=
  h.setBuf (writeSeq_wf (h.mem_wf sp) 0 bytes)
    (writeSeq_below (h.mem_in sp) 0 bytes (by rwa [Nat.zero_add]))

/-- A finished stream that fits BYTE_OUT (R64). -/
theorem State.Inv.emitBytes {s : State} (h : s.Inv) {bytes : List Byte} (hfits : bytes.length ≤ s.caps.byteOut) :
    (emitBytes bytes s).Inv :=
  { h.setBuf_writeSeq (sp := .byteOut) hfits with out_len_le := toNat_ofNat_le hfits }

/-- The latch takes a code together with ERR (R236). -/
theorem State.Inv.raiseFault {s : State} (h : s.Inv) (f : BlockFault) : (raiseFault f s).Inv := by
  cases herr : s.err with
  | true => rwa [raiseFault_latched f herr]
  | false =>
    rw [raiseFault_clear f herr]
    exact { h with latch_clear := fun hclear => (by cases hclear), latch_set := fun _ => rfl }

/-- Both reset events clear the registers that the invariant bounds, and unbind the unpacker. -/
theorem State.Inv.resetRegisters {s : State} (h : s.Inv) : (resetRegisters s).Inv :=
  { h with
    not_busy := rfl
    latch_clear := fun _ => ⟨rfl, rfl, rfl⟩
    latch_set := fun hset => by cases hset
    out_len_le := Nat.zero_le _
    idx_len_le := Nat.zero_le _
    dec_mcs_ok := .inl rfl
    pk_fits := .inl rfl
    up_ok := fun hbound => by cases hbound }

theorem State.Inv.hardwareReset {s : State} (h : s.Inv) : (hardwareReset s).Inv :=
  { h.resetRegisters with
    mem_wf := fun sp => by rw [buf_hardwareReset]; exact List.Pairwise.nil
    mem_in := fun sp c hc => by rw [buf_hardwareReset] at hc; cases hc }

theorem State.Inv.takeInput {s : State} (h : s.Inv) (rest : List Input) : (s.takeInput rest).Inv := { h with }

/-- The three registers the host writes are free in the invariant (R211). -/
theorem State.Inv.writeReg {s : State} (h : s.Inv) (off : BitVec 8) (v : Word) : (writeReg off v s).Inv := by
  unfold Machine.writeReg
  split
  · exact { h with }
  · exact { h with }
  · exact { h with }
  · exact h

/-! #### Commands and steps -/

/-- A command that succeeds keeps the invariant. BUSY is 1 while it runs, and its end clears it (R265). -/
theorem Succeeds.keeps_inv {i : Instr} {s t : State} (hdone : Succeeds s i t) (h : (s.setBusy false).Inv) :
    (t.setBusy false).Inv := by
  cases hdone with
  | pkOpen => exact { h with pk_fits := .inl rfl }
  | pkAdd hfits => exact { h with pk_fits := .inr (by simpa [lowBits] using hfits) }
  | pkFinish hfits => exact { h.emitBytes hfits with pk_fits := .inl rfl }
  | upOpen hlen => exact { h with up_ok := fun _ => Cursor.openAt_inv s.inPos.isLt hlen }
  | upRead hbound hread =>
    exact { h with up_ok := fun _ => (h.up_ok hbound).readCode (byteIn_lt_of_wf h.caps_ok) hread }
  | upClose => exact { h with up_ok := fun hbound => by cases hbound }
  | encRun hfits => exact { h.emitBytes hfits with }
  | @decRun d hdec =>
    obtain ⟨h2, h8, hout⟩ := decStream_ok hdec
    exact { h.setBuf_writeSeq (sp := .idxOut) hout with
      idx_len_le := toNat_ofNat_le hout
      dec_mcs_ok := .inr (by
        show 2 ≤ (BitVec.ofNat 8 d.m).toNat ∧ (BitVec.ofNat 8 d.m).toNat ≤ 8
        rw [BitVec.toNat_ofNat]; omega) }

theorem State.Inv.raiseFault_busy {s : State} (h : (s.setBusy false).Inv) (f : BlockFault) :
    ((Machine.raiseFault f s).setBusy false).Inv := by
  have hcomm : (Machine.raiseFault f s).setBusy false = Machine.raiseFault f (s.setBusy false) := by
    unfold Machine.raiseFault
    rw [setBusy_err]
    split <;> rfl
  exact hcomm ▸ h.raiseFault f

theorem Executes.keeps_inv {i : Instr} {s t : State} (hexec : Executes s i t) (h : (s.setBusy false).Inv) :
    (t.setBusy false).Inv := by
  cases hexec with
  | softReset => exact h.resetRegisters
  | dropped => exact h
  | faulted herr f => exact h.raiseFault_busy f
  | done herr hdone => exact hdone.keeps_inv h

/-- Every action of the outside world keeps the invariant. -/
theorem Performs.keeps_inv {i : Input} {s t : State} (hperf : Performs s i t) (h : s.Inv) : t.Inv := by
  cases hperf with
  | command hbusy hissue =>
    have hrun : ((s.setBusy true).setBusy false).Inv := { h with not_busy := rfl }
    obtain ⟨i, -, hexec⟩ | rfl := issue_cases hissue
    · exact hexec.keeps_inv hrun
    · exact hrun.raiseFault_busy _
  | writeReg v => exact h.writeReg _ v
  | readReg => exact { h with }
  | @writeCell sp a v hcell =>
    refine h.setBuf (write_wf (h.mem_wf sp) a v) fun c hc => ?_
    obtain rfl | hold := mem_write hc
    · exact hcell
    · exact h.mem_in sp c hold
  | readCell => exact { h with }
  | hardwareReset => exact h.hardwareReset

/-- Settles O55: an idle step keeps the state, and every action keeps the invariant. -/
theorem everyStepKeepsTheInvariant : Obligations.EveryStepKeepsTheInvariant := by
  intro s t h hstep
  obtain ⟨-, rfl⟩ | ⟨i, rest, -, hperf⟩ := step_cases hstep
  · exact h
  · exact hperf.keeps_inv (h.takeInput rest)

/-- Settles O21: a finish writes at least one byte per eight bits (R115). -/
theorem packerBitsAreBounded : Obligations.PackerBitsAreBounded := by
  intro s h
  obtain hempty | hfits := h.pk_fits
  · rw [hempty]; exact Nat.zero_le _
  · simp only [flen, ceilDiv, Config.subblockMax] at hfits
    omega

end Sys2Proof.Machine

/-! ### What steps and commands leave unchanged -/

namespace Sys2Proof.Machine

/-! #### The latch -/

/-- Only SOFT_RESET's operation code decodes to SOFT_RESET (R82). -/
theorem opcOf_of_decode_softReset {c : Word} {low : Nat} (h : decode c = .ok (.softReset low)) : opcOf c = 0x0F := by
  unfold decode at h
  split at h
  case h_9 => assumption
  case h_10 => cases h
  all_goals
    unfold whenFields at h
    split at h <;> cases h

/-- Under a latched error every command but SOFT_RESET is dropped (R214). -/
theorem Executes.eq_of_err {i : Instr} {s t : State} (h : Executes s i t) (herr : s.err = true)
    (hi : ∀ low, i ≠ .softReset low) : t = s := by
  cases h with
  | softReset low => exact absurd rfl (hi low)
  | dropped => rfl
  | faulted hclear => rw [herr] at hclear; cases hclear
  | done hclear => rw [herr] at hclear; cases hclear

/-- Settles O10: a command but SOFT_RESET is dropped, an illegal word is not latched, and no other action of the host
reaches the latch. -/
theorem latchedErrorStaysUntilReset : Obligations.LatchedErrorStaysUntilReset := by
  intro s t hstep herr hnoreset hnosoft
  obtain ⟨-, rfl⟩ | ⟨i, rest, hin, hperf⟩ := step_cases hstep
  · exact ⟨herr, rfl, rfl, rfl⟩
  · cases hperf with
    | @command c u hbusy hissue =>
      have hu : u = (s.takeInput rest).setBusy true := by
        obtain ⟨i, hdecode, hexec⟩ | hillegal := issue_cases hissue
        · refine hexec.eq_of_err herr fun low hi => hnosoft c rest hin ?_
          exact opcOf_of_decode_softReset (hi ▸ hdecode)
        · exact hillegal.trans (raiseFault_latched _ herr)
      subst hu
      exact ⟨herr, rfl, rfl, rfl⟩
    | writeReg v => simpa using herr
    | readReg => exact ⟨herr, rfl, rfl, rfl⟩
    | writeCell v => simpa using herr
    | readCell => exact ⟨herr, rfl, rfl, rfl⟩
    | hardwareReset => exact absurd hin (hnoreset rest)

/-! #### Commands -/

/-- A fault moves no cell. -/
@[simp] theorem raiseFault_cell (f : BlockFault) (s : State) (sp : Space) (a : Nat) :
    (raiseFault f s).cell sp a = s.cell sp a :=
  cell_congr (raiseFault_draw f s) sp a (by rw [buf_raiseFault])

/-- Settles O58: RESULT is kept by a dropped and by a faulting command, and by the effects of the other three commands. -/
theorem onlyResultWritersChangeResult : Obligations.OnlyResultWritersChangeResult := by
  intro i s t hexec hne
  cases executes_of_exec hexec with
  | softReset low => exact .inr ⟨low, rfl⟩
  | dropped => exact absurd rfl hne
  | faulted herr f => exact absurd (raiseFault_result f s) hne
  | done herr hdone =>
    refine .inl ⟨herr, hdone.err_eq.trans herr, ?_⟩
    cases hdone with
    | pkOpen | pkAdd | upOpen => exact absurd rfl hne
    | @upRead w => exact .inl ⟨w, rfl⟩
    | upClose => exact .inr (.inl rfl)
    | @pkFinish pre => exact .inr (.inr (.inl ⟨pre, rfl⟩))
    | @encRun mcs => exact .inr (.inr (.inr (.inl ⟨mcs, rfl⟩)))
    | decRun => exact .inr (.inr (.inr (.inr rfl)))

/-- Settles O59: each command's effect names neither an input buffer nor an input length. -/
theorem commandsLeaveTheInputsAlone : Obligations.CommandsLeaveTheInputsAlone := by
  intro i s t hexec
  have h := executes_of_exec hexec
  obtain ⟨hidx, hbyte, hcaps, hinputs, hdraw⟩ := h.keeps_inputs
  refine ⟨fun a => cell_congr hdraw .idxIn a (congrArg (Memory.lookup · a) hidx),
    fun a => cell_congr hdraw .byteIn a (congrArg (Memory.lookup · a) hbyte), hcaps, hinputs, fun hi => ?_⟩
  cases h with
  | softReset low => exact absurd rfl (hi low)
  | dropped => exact ⟨rfl, rfl⟩
  | faulted herr f => exact ⟨raiseFault_encLen f s, raiseFault_inLen f s⟩
  | done herr hdone => cases hdone <;> exact ⟨rfl, rfl⟩

/-- `put u t` is `u` with the fields of `t` a command may write. A dropped command changes nothing and a faulting one the
latch alone, so a frame is settled by what success does (R236). -/
theorem Executes.frame {i : Instr} {s t : State} (h : Executes s i t) (hi : ∀ low, i ≠ .softReset low)
    (put : State → State → State) (hself : ∀ u, put u u = u)
    (hdone : ∀ u, Succeeds s i u → u = put (s.withLatchOf u) u) : t = put (s.withLatchOf t) t := by
  cases h with
  | softReset low => exact absurd rfl (hi low)
  | dropped => exact (hself s).symm
  | faulted herr f => rw [← raiseFault_withLatchOf, hself]
  | done herr hd => exact hdone t hd

/-- A cell changes only where success changes it. -/
theorem Executes.cell_eq {i : Instr} {s t : State} {sp : Space} {a : Nat} (h : Executes s i t)
    (hdone : ∀ u, Succeeds s i u → u.cell sp a = s.cell sp a) : t.cell sp a = s.cell sp a := by
  cases h with
  | softReset | dropped => rfl
  | faulted herr f => exact raiseFault_cell f s sp a
  | done herr hd => exact hdone t hd

/-- The frame of a command that stores nothing. -/
theorem Executes.frame_nonStoring {i : Instr} {s t : State} (h : Executes s i t) (hi : ∀ low, i ≠ .softReset low)
    (put : State → State → State) (hself : ∀ u, put u u = u)
    (hdone : ∀ u, Succeeds s i u → u = put (s.withLatchOf u) u ∧ ∀ sp a, u.cell sp a = s.cell sp a) :
    t = put (s.withLatchOf t) t ∧ ∀ sp a, t.cell sp a = s.cell sp a :=
  ⟨h.frame hi put hself fun u hu => (hdone u hu).1, fun sp a => h.cell_eq fun u hu => (hdone u hu).2 sp a⟩

/-- Settles O56: the effect of each of the five commands on success is a write of the fields named, and of no buffer. -/
theorem frameOfNonStoringCommands : Obligations.FrameOfNonStoringCommands := by
  intro s t
  refine ⟨fun hexec => ?_, fun w v hexec => ?_, fun hexec => ?_, fun w hexec => ?_, fun hexec => ?_⟩
  · exact (executes_of_exec hexec).frame_nonStoring nofun (fun u t => { u with pkBits := t.pkBits }) (fun _ => rfl)
      fun u hu => by cases hu; exact ⟨rfl, fun _ _ => rfl⟩
  · exact (executes_of_exec hexec).frame_nonStoring nofun (fun u t => { u with pkBits := t.pkBits }) (fun _ => rfl)
      fun u hu => by cases hu; exact ⟨rfl, fun _ _ => rfl⟩
  · exact (executes_of_exec hexec).frame_nonStoring nofun (fun u t => { u with upBound := t.upBound, up := t.up })
      (fun _ => rfl) fun u hu => by cases hu; exact ⟨rfl, fun _ _ => rfl⟩
  · exact (executes_of_exec hexec).frame_nonStoring nofun (fun u t => { u with up := t.up, result := t.result })
      (fun _ => rfl) fun u hu => by cases hu; exact ⟨rfl, fun _ _ => rfl⟩
  · exact (executes_of_exec hexec).frame_nonStoring nofun
      (fun u t => { u with inPos := t.inPos, result := t.result, upBound := t.upBound })
      (fun _ => rfl) fun u hu => by cases hu; exact ⟨rfl, fun _ _ => rfl⟩

/-! #### The clamp warning (R162, R242) -/

/-- Whether an ENC_RUN from a state without an error succeeded is read off ERR. -/
theorem encRun_warnClamp {mcs : Nat} {s t : State} (herr : s.err = false) (h : Executes s (.encRun mcs) t) :
    (t.err = false → t.warnClamp = decide (mcs < 2)) ∧ (t.err = true → t.warnClamp = s.warnClamp) := by
  cases h with
  | dropped hset => rw [herr] at hset; cases hset
  | faulted _ f => simp
  | done _ hdone =>
    refine ⟨fun _ => by cases hdone; rfl, fun hset => ?_⟩
    rw [hdone.err_eq, herr] at hset
    cases hset

/-- Beside the warning, a clamped operand does what the operand 2 does, in the checks as in the effect (R151). -/
theorem encRunBody_clamped {mcs : Nat} (hmcs : mcs < 2) (s : State) :
    encRunBody mcs s = (encRunBody 2 s).map fun t => { t with warnClamp := true } := by
  have hclamp : clampMcs mcs = clampMcs 2 := by simp only [clampMcs, Config.mcsMin]; omega
  have hmax : ¬ mcs > Config.mcsMax := by simp only [Config.mcsMax]; omega
  have hmax2 : ¬ 2 > Config.mcsMax := by decide
  have hwarn : clampWarning mcs = true := decide_eq_true hmcs
  simp only [encRunBody, hclamp, hmax, hmax2, hwarn, if_false]
  iterate 4 (split; · rfl)
  split <;> rfl

/-- Settles O32: no fault and no other command's effect reaches WARN_CLAMP, and a clamped operand is the operand 2 but for
the warning. -/
theorem clampWarningFollowsSuccess : Obligations.ClampWarningFollowsSuccess := by
  refine ⟨fun mcs s t herr hexec => encRun_warnClamp herr (executes_of_exec hexec), fun i s t hexec hne => ?_,
    fun mcs s t t2 hmcs hexec hexec2 => ?_⟩
  · cases executes_of_exec hexec with
    | softReset low => exact .inr ⟨rfl, low, rfl⟩
    | dropped => exact absurd rfl hne
    | faulted herr f => exact absurd (raiseFault_warnClamp f s) hne
    | done herr hdone =>
      refine .inl ⟨herr, hdone.err_eq.trans herr, ?_⟩
      cases hdone with
      | @encRun mcs => exact ⟨mcs, rfl⟩
      | _ => exact absurd rfl hne
  · obtain ⟨herr, rfl⟩ | ⟨herr, hbody⟩ | ⟨herr, f, hbody, rfl⟩ := command_cases hexec2
    · rw [show exec (.encRun mcs) t2 = .next t2 from command_dropped herr] at hexec
      cases hexec; rfl
    · have hclamped : encRunBody mcs s = .ok { t2 with warnClamp := true } := by
        rw [encRunBody_clamped hmcs, hbody]; rfl
      rw [show exec (.encRun mcs) s = _ from command_ok herr hclamped] at hexec
      cases hexec; rfl
    · have hclamped : encRunBody mcs s = .error f := by
        rw [encRunBody_clamped hmcs, hbody]; rfl
      rw [show exec (.encRun mcs) s = _ from command_error herr hclamped] at hexec
      cases hexec; rfl

/-! #### The cursor of an unbound unpacker (R46, R47) -/

/-- Two answers of a body that differ at most in an unbound cursor. -/
inductive AgreeUpToCursor : Except BlockFault State → Except BlockFault State → Prop where
  | fault (f : BlockFault) : AgreeUpToCursor (.error f) (.error f)
  | equal (t : State) : AgreeUpToCursor (.ok t) (.ok t)
  | same {t t' : State} (h : t.sameButUnboundCursor t') : AgreeUpToCursor (.ok t) (.ok t')

theorem State.sameButUnboundCursor.raiseFault {s s' : State} (h : s.sameButUnboundCursor s') (f : BlockFault) :
    (raiseFault f s).sameButUnboundCursor (raiseFault f s') := by
  obtain ⟨hs, hs', heq⟩ := h
  refine ⟨by simpa using hs, by simpa using hs', ?_⟩
  rw [heq]
  unfold Machine.raiseFault
  split <;> rfl

theorem State.sameButUnboundCursor.command {s s' t t' : State} {body : State → Except BlockFault State}
    (h : s.sameButUnboundCursor s') (hbody : AgreeUpToCursor (body s) (body s'))
    (ht : command s body = .next t) (ht' : command s' body = .next t') : t = t' ∨ t.sameButUnboundCursor t' := by
  have herr : s'.err = s.err := by rw [h.2.2]
  cases hs : s.err with
  | true =>
    rw [command_dropped hs] at ht
    rw [command_dropped (herr.trans hs)] at ht'
    cases ht; cases ht'
    exact .inr h
  | false =>
    have hs' := herr.trans hs
    simp only [Machine.command, hs, hs'] at ht ht'
    generalize body s = r, body s' = r' at hbody ht ht'
    cases hbody with
    | fault f => cases ht; cases ht'; exact .inr (h.raiseFault f)
    | equal u => cases ht; cases ht'; exact .inl rfl
    | same hu => cases ht; cases ht'; exact .inr hu

/-- No register reads the cursor (R46). -/
theorem State.sameButUnboundCursor.readReg {t t' : State} (h : t.sameButUnboundCursor t') (off : BitVec 8) :
    readReg t off = readReg t' off := by
  rw [h.2.2]
  rfl

/-- UP_OPEN overwrites the cursor, and reads nothing of the old one (R131). -/
theorem upOpenBody_agree (s : State) (u : Cursor) : AgreeUpToCursor (upOpenBody s) (upOpenBody { s with up := u }) := by
  unfold upOpenBody
  split
  · exact .fault _
  · exact .equal _

section
variable {s : State} (hs : s.upBound = false) (u : Cursor)
include hs

theorem pkAddBody_agree (w v : Nat) : AgreeUpToCursor (pkAddBody w v s) (pkAddBody w v { s with up := u }) := by
  unfold pkAddBody
  split
  · exact .fault _
  · split
    · exact .fault _
    · exact .same ⟨hs, hs, rfl⟩

theorem pkFinishBody_agree (pre : Nat) :
    AgreeUpToCursor (pkFinishBody pre s) (pkFinishBody pre { s with up := u }) := by
  unfold pkFinishBody
  simp only
  split
  · exact .fault _
  · exact .same ⟨hs, hs, rfl⟩

theorem upReadBody_agree (w : Nat) : AgreeUpToCursor (upReadBody w s) (upReadBody w { s with up := u }) := by
  simp only [upReadBody, hs]
  exact .fault _

theorem upCloseBody_agree : AgreeUpToCursor (upCloseBody s) (upCloseBody { s with up := u }) := by
  simp only [upCloseBody, hs]
  exact .fault _

/-- Each of the six checks gives the same fault, since none reads the cursor (R160). -/
theorem encRunBody_agree (mcs : Nat) :
    AgreeUpToCursor (encRunBody mcs s) (encRunBody mcs { s with up := u }) := by
  have hinput : encInput { s with up := u } = encInput s := rfl
  simp only [encRunBody, hinput]
  iterate 6 (split; · exact .fault _)
  exact .same ⟨hs, hs, rfl⟩

/-- The position a bound unpacker would give DEC_RUN's fault is read only when it is bound (R180). -/
theorem decRunBody_agree : AgreeUpToCursor (decRunBody s) (decRunBody { s with up := u }) := by
  have hread : State.cell { s with up := u } .byteIn = s.cell .byteIn := rfl
  simp only [decRunBody, hread]
  split
  · rename_i hbound
    rw [hs] at hbound
    cases hbound
  split
  · exact .fault _
  split
  · exact .fault _
  · exact .same ⟨hs, hs, rfl⟩

/-- Every command answers two such states alike; SOFT_RESET gives the cursor fields free values of the draw (R47). -/
theorem exec_agree {i : Instr} {t t' : State} (ht : exec i s = .next t) (ht' : exec i { s with up := u } = .next t') :
    t = t' ∨ t.sameButUnboundCursor t' := by
  have h : s.sameButUnboundCursor { s with up := u } := ⟨hs, hs, rfl⟩
  cases i with
  | pkOpen => exact h.command (body := fun s => .ok { s with pkBits := [] }) (.same ⟨hs, hs, rfl⟩) ht ht'
  | pkAdd w v => exact h.command (pkAddBody_agree hs u w v) ht ht'
  | pkFinish pre => exact h.command (pkFinishBody_agree hs u pre) ht ht'
  | upOpen => exact h.command (upOpenBody_agree s u) ht ht'
  | upRead w => exact h.command (upReadBody_agree hs u w) ht ht'
  | upClose => exact h.command (upCloseBody_agree hs u) ht ht'
  | encRun mcs => exact h.command (encRunBody_agree hs u mcs) ht ht'
  | decRun => exact h.command (decRunBody_agree hs u) ht ht'
  | softReset low => cases ht; cases ht'; exact .inl rfl

end

/-- Settles O60: no body reads the cursor of an unbound unpacker before its first fault, and no register shows it. -/
theorem unboundCursorIsUnobservable : Obligations.UnboundCursorIsUnobservable := by
  intro i s s' t t' h ht ht'
  obtain ⟨hs, -, hs'⟩ := h
  rw [hs'] at ht'
  have hagree := exec_agree hs s'.up ht ht'
  refine ⟨hagree, fun off => ?_⟩
  obtain rfl | hsame := hagree
  · rfl
  · exact hsame.readReg off

end Sys2Proof.Machine

/-! ### The register map (spec/10_state.md R22 to R36) -/

namespace Sys2Proof.Machine

/-! #### STATUS -/

/-- Bit `i` of a list's number is the list's `i`-th bit (R66). -/
theorem testBit_bitsValue (bs : List Bool) (i : Nat) : (bitsValue bs).testBit i = (bs[i]?).getD false := by
  induction bs generalizing i with
  | nil => simp [bitsValue]
  | cons b rest ih =>
    have hbit : bitsValue (b :: rest) = Nat.bit b (bitsValue rest) := by
      rw [Nat.bit_val, bitsValue, Nat.add_comm]
    cases i with
    | zero => rw [hbit, Nat.testBit_bit_zero]; rfl
    | succ i => rw [hbit, Nat.testBit_bit_succ, ih]; rfl

/-- STATUS is the number whose bits are its five fields, the low-order one first. -/
theorem statusWord_eq (s : State) :
    statusWord s = BitVec.ofNat 32 (bitsValue [s.err, s.busy, pkPending s, s.upBound, s.warnClamp]) := by
  unfold statusWord
  congr 1
  simp only [bitsValue]
  omega

theorem pkPending_eq (s : State) : pkPending s = decide (0 < s.pkBits.length) := by
  unfold pkPending
  cases s.pkBits <;> rfl

/-- Settles O48: the bits of a list's number are the list's. -/
theorem statusBitsAreTheFields : Obligations.StatusBitsAreTheFields := by
  intro s i
  have hbit : ∀ j, (readReg s 0x04).getLsbD j =
      (decide (j < 32) && ([s.err, s.busy, pkPending s, s.upBound, s.warnClamp][j]?).getD false) := by
    intro j
    rw [← testBit_bitsValue, ← BitVec.getLsbD_ofNat, ← statusWord_eq]
    rfl
  refine ⟨hbit 0, hbit 1, (hbit 2).trans (pkPending_eq s), hbit 3, hbit 4, fun hi => ?_⟩
  rw [hbit i, List.getElem?_eq_none (by simpa using hi)]
  simp

/-! #### Reads -/

/-- ERRCODE's number of each code is R231's. -/
theorem errcode_number_mem (e : ErrCode) : (e, BitVec.ofNat 32 e.number) ∈ errorCodeTable := by
  cases e <;> decide

theorem errcodeWord_of_some {s : State} {e : ErrCode} (h : s.errcode = some e) :
    errcodeWord s = BitVec.ofNat 32 e.number := by
  simp [errcodeWord, h]

theorem errcodeWord_of_none {s : State} (h : s.errcode = none) : errcodeWord s = 0 := by
  simp [errcodeWord, h]

theorem step_readReg {s : State} {off : BitVec 8} {rest : List Input} (h : s.inputs = .readReg off :: rest) :
    step s = .next { s.takeInput rest with readData := readReg (s.takeInput rest) off } :=
  step_input h

/-- Settles O47: the register map is read off `readReg`, but for the number of the latched code and the range of PK_NBITS. -/
theorem hostReadsReturnTheRegisters : Obligations.HostReadsReturnTheRegisters := by
  intro s off rest h
  refine ⟨step_readReg h, rfl, errcodeWord_of_none, fun e he => ?_, rfl, rfl, rfl, rfl, rfl, rfl, rfl, rfl, rfl, rfl,
    fun hlen => regWord_of_lt s.draw hlen⟩
  rw [show readReg s 0x08 = errcodeWord s from rfl, errcodeWord_of_some he]
  exact errcode_number_mem e

/-! #### Reserved offsets and writes -/

theorem readReg_reserved {off : BitVec 8} (h : reservedOffset off) (s : State) : readReg s off = 0 := by
  unfold reservedOffset at h
  unfold readReg
  split
  case h_13 => rfl
  all_goals omega

theorem writeReg_reserved {off : BitVec 8} (h : reservedOffset off) (v : Word) (s : State) : writeReg off v s = s := by
  unfold reservedOffset at h
  unfold writeReg
  split
  case h_4 => rfl
  all_goals omega

/-- A write at an offset other than CMD's issues no command (R211). -/
theorem step_writeReg {s : State} {off : BitVec 8} {v : Word} {rest : List Input}
    (h : s.inputs = .writeReg off v :: rest) (hbusy : s.busy = false) (hoff : off ≠ 0x00) :
    step s = .next (writeReg off v (s.takeInput rest)) := by
  rw [step_input h]
  exact (if_neg (by simp [hbusy])).trans (if_neg hoff)

/-- Settles O49: `readReg` and `writeReg` name multiples of 4 below 0x34 only. -/
theorem reservedOffsetsReadZeroIgnoreWrites : Obligations.ReservedOffsetsReadZeroIgnoreWrites := by
  intro s off v rest hres hbusy
  refine ⟨fun hin => ?_, fun hin => ?_⟩
  · rw [step_readReg hin, readReg_reserved hres]
  · have hoff : off ≠ 0x00 := by
      rintro rfl
      revert hres
      simp [reservedOffset]
    rw [step_writeReg hin hbusy hoff, writeReg_reserved hres]

/-- The three writable registers, told apart by the offset itself (R211). -/
theorem writeReg_eq (off : BitVec 8) (v : Word) (s : State) :
    writeReg off v s =
      if off = 0x18 then { s with encLen := v }
      else if off = 0x1C then { s with inLen := v }
      else if off = 0x20 then { s with inPos := v }
      else s := by
  unfold writeReg
  split
  case h_1 heq => rw [if_pos (BitVec.eq_of_toNat_eq heq)]
  case h_2 heq => obtain rfl : off = 0x1C := BitVec.eq_of_toNat_eq heq; rfl
  case h_3 heq => obtain rfl : off = 0x20 := BitVec.eq_of_toNat_eq heq; rfl
  case h_4 h18 h1C h20 =>
    rw [if_neg fun h => h18 (congrArg BitVec.toNat h), if_neg fun h => h1C (congrArg BitVec.toNat h),
      if_neg fun h => h20 (congrArg BitVec.toNat h)]

/-- Settles O50: a write at an offset other than CMD's is `writeReg`, for which ERR plays no part. -/
theorem hostWritesReachThreeRegisters : Obligations.HostWritesReachThreeRegisters := by
  intro s off v rest hin hbusy hoff
  rw [step_writeReg hin hbusy hoff, writeReg_eq]

/-! #### After reset -/

/-- Every register reads 0 after a reset event (R47, R261). -/
theorem readReg_resetRegisters (s : State) (off : BitVec 8) : readReg (resetRegisters s) off = 0 := by
  unfold readReg
  split <;> rfl

theorem resetRegisters_cell (s : State) (sp : Space) (a : Nat) : (resetRegisters s).cell sp a = s.cell sp a :=
  cell_congr rfl sp a (by rw [buf_resetRegisters])

/-- Settles O45: SOFT_RESET is the reset of the registers and units, whatever the state and its low bits. -/
theorem softResetClearsEveryRegister : Obligations.SoftResetClearsEveryRegister := by
  intro low s
  exact ⟨resetRegisters s, rfl, readReg_resetRegisters s, rfl, rfl, rfl, rfl, resetRegisters_cell s, rfl, rfl, rfl⟩

/-- Settles O53: but for the cursor, which no register reads, the reset state is what a reset event makes of it. -/
theorem resetStateIsAsTheSpecSays : Obligations.ResetStateIsAsTheSpecSays := by
  have hreset : State.reset.sameButUnboundCursor (resetRegisters State.reset) := ⟨rfl, rfl, rfl⟩
  refine ⟨fun off => ?_, rfl, rfl, rfl, rfl, fun sp a => ?_⟩
  · rw [hreset.readReg off, readReg_resetRegisters]
  · rw [buf_reset, lookup_nil]

/-! ### Issuing a command -/

/-- Settles O6: the step is the dispatch between BUSY's set and clear, and a legal word dispatches to `exec`. -/
theorem stepRunsTheDecodedCommand : Obligations.StepRunsTheDecodedCommand := by
  intro s t c rest i hissue hdecode hexec
  rw [step_command hissue]
  simp only [issue, hdecode, hexec, endCommand]

/-- Settles O27: the cursor stands at a zero terminator, so the end-of-stream check answers the index just past it. -/
theorem upCloseConsumesTheTerminator : Obligations.UpCloseConsumesTheTerminator := by
  intro s herr hbound hrem hpos hzero
  have hclose : closeStream (s.cell .byteIn) s.up = .ok (s.up.pos + 1) := closeStream_ok.2 ⟨hrem, hpos, hzero, rfl⟩
  exact command_ok herr (by simp [upCloseBody, hbound, hclose])

end Sys2Proof.Machine

/-! ### Buffer memory: what commands and the host's cell accesses change (spec/20_memory.md R60 to R76) -/

namespace Sys2Proof.Machine

/-! #### A run of cells from cell 0 -/

/-- The stored cells read as the bytes, every other cell of the buffer as before (R71). -/
theorem cell_setBuf_writeSeq (s : State) (sp : Space) (bytes : List Byte) (a : Nat) :
    (s.setBuf sp (Memory.writeSeq (s.buf sp) 0 bytes)).cell sp a = (bytes[a]?).getD (s.cell sp a) := by
  rw [State.cell, buf_setBuf, setBuf_draw, lookup_writeSeq, Nat.zero_add, Nat.sub_zero]
  by_cases ha : a < bytes.length
  · rw [if_pos ⟨Nat.zero_le a, ha⟩, List.getElem?_eq_getElem ha]
    rfl
  · rw [if_neg fun h => ha h.2, List.getElem?_eq_none (Nat.le_of_not_lt ha)]
    rfl

/-- A write of one buffer is not seen in another: each is its own address space (R60). -/
theorem cell_setBuf_ne (s : State) {sp sp' : Space} (h : sp' ≠ sp) (m : Memory) (a : Nat) :
    (s.setBuf sp m).cell sp' a = s.cell sp' a :=
  cell_congr (setBuf_draw s sp m) sp' a (by rw [buf_setBuf_ne s h])

/-- The frame of a run of cells: only the first cells of the one buffer are stored. -/
theorem cell_setBuf_writeSeq_of_le (s : State) {sp sp' : Space} {bytes : List Byte} {a : Nat}
    (h : sp' = sp → bytes.length ≤ a) :
    (s.setBuf sp (Memory.writeSeq (s.buf sp) 0 bytes)).cell sp' a = s.cell sp' a := by
  by_cases hsp : sp' = sp
  · subst hsp
    rw [cell_setBuf_writeSeq, List.getElem?_eq_none (h rfl)]
    rfl
  · exact cell_setBuf_ne s hsp _ a

/-! #### Commands -/

/-- Settles O13: of what a command can do, only a fault turns ERR from 0 to 1, and a fault is a change of the latch. -/
theorem faultingCommandChangesOnlyTheLatch : Obligations.FaultingCommandChangesOnlyTheLatch := by
  intro i s t hexec herr hset
  cases executes_of_exec hexec with
  | softReset low => cases hset
  | dropped hlatched => rw [herr] at hlatched; cases hlatched
  | faulted _ f => exact ⟨raiseFault_withLatchOf f s, by rw [raiseFault_clear f herr]; rfl⟩
  | done _ hdone => rw [hdone.err_eq, herr] at hset; cases hset

/-- The frame of a command that stores: `kept` names the cells its success leaves alone. -/
theorem Executes.frame_storing {i : Instr} {s t : State} (h : Executes s i t) (hi : ∀ low, i ≠ .softReset low)
    (put : State → State → State) (hself : ∀ u, put u u = u) {kept : Space → Nat → Prop}
    (hdone : ∀ u, Succeeds s i u →
      u = put (s.withLatchOf u) u ∧ ∀ sp a, kept sp a → u.cell sp a = s.cell sp a) :
    t = put (s.withLatchOf t) t ∧ ∀ sp a, kept sp a → t.cell sp a = s.cell sp a :=
  ⟨h.frame hi put hself fun u hu => (hdone u hu).1,
    fun sp a hkept => h.cell_eq fun u hu => (hdone u hu).2 sp a hkept⟩

/-- Settles O57: each of the three commands stores on success a run of cells from cell 0, and else only the fields named. -/
theorem frameOfStoringCommands : Obligations.FrameOfStoringCommands := by
  intro s t
  refine ⟨fun p hexec => ?_, fun mcs hexec => ?_, fun hexec => ?_⟩
  · refine (executes_of_exec hexec).frame_storing nofun
      (fun u t => { u with pkBits := t.pkBits, byteOut := t.byteOut, outLen := t.outLen, result := t.result })
      (fun _ => rfl) fun u hu => ?_
    cases hu
    exact ⟨rfl, fun sp a hkept => cell_setBuf_writeSeq_of_le s hkept⟩
  · refine (executes_of_exec hexec).frame_storing nofun
      (fun u t => { u with
        byteOut := t.byteOut, outLen := t.outLen, result := t.result, warnClamp := t.warnClamp })
      (fun _ => rfl) fun u hu => ?_
    cases hu
    exact ⟨rfl, fun sp a hkept => cell_setBuf_writeSeq_of_le s hkept⟩
  · refine (executes_of_exec hexec).frame_storing nofun
      (fun u t => { u with
        idxOut := t.idxOut, idxOutLen := t.idxOutLen, result := t.result, decMcs := t.decMcs, inPos := t.inPos })
      (fun _ => rfl) fun u hu => ?_
    cases hu with
    | decRun hdec => exact ⟨rfl, fun sp a hkept => cell_setBuf_writeSeq_of_le s fun hsp => hkept hsp _ hdec⟩

/-- PK_FINISH's body where the frame fits (R116). -/
theorem pkFinishBody_of_fits {p : Nat} {s : State} (hfits : (frame (BitVec.ofNat 8 p) s.pkBits).length ≤ s.caps.byteOut) :
    pkFinishBody p s = .ok { emitBytes (frame (BitVec.ofNat 8 p) s.pkBits) s with pkBits := [] } :=
  if_neg (Nat.not_lt_of_le hfits)

/-- Settles O17: the frame is a run of cells of BYTE_OUT from cell 0. -/
theorem pkFinishWritesTheFrame : Obligations.PkFinishWritesTheFrame := by
  intro p s herr hfits
  exact ⟨_, command_ok herr (pkFinishBody_of_fits hfits), cell_setBuf_writeSeq s .byteOut _, rfl⟩

/-! #### Steps -/

/-- Settles O7: a step without an input performs nothing. -/
theorem idleBlockKeepsItsState : Obligations.IdleBlockKeepsItsState :=
  fun _ => step_idle

/-- A host cell write reaches `hostWriteCell` while BUSY is 0 (R215). -/
theorem step_writeCell {s : State} {sp : Space} {a : Nat} {v : Byte} {rest : List Input}
    (h : s.inputs = .writeCell sp a v :: rest) (hbusy : s.busy = false) :
    step s = hostWriteCell sp a v (s.takeInput rest) := by
  rw [step_input h]
  exact if_neg (by simp [hbusy])

/-- The host has the move on a cell of IDX_IN, and on one of BYTE_IN while the unpacker is unbound (R60, R266). -/
theorem hostWriteCell_of_move {s : State} {sp : Space} {a : Nat} (v : Byte)
    (hmove : sp = .idxIn ∨ (sp = .byteIn ∧ s.upBound = false)) (ha : a < s.caps.size sp) :
    hostWriteCell sp a v s = .next (s.setBuf sp (Memory.write (s.buf sp) a v)) := by
  have hstore : storeCell sp a v s = .next (s.setBuf sp (Memory.write (s.buf sp) a v)) := if_pos ha
  obtain rfl | ⟨rfl, hunbound⟩ := hmove
  · exact hstore
  · exact (if_neg (by simp [hunbound])).trans hstore

/-- Settles O51: where the host has the move, the write is one of buffer memory. -/
theorem hostCellWritesChangeOneCell : Obligations.HostCellWritesChangeOneCell := by
  intro s sp a v rest hin hbusy
  rw [step_writeCell hin hbusy]
  refine ⟨fun hmove ha => ?_, ?_, ?_⟩
  · refine ⟨_, hostWriteCell_of_move (s := s.takeInput rest) v hmove ha, by rw [buf_setBuf], fun b => ?_⟩
    rw [buf_setBuf, lookup_write, buf_takeInput]
  · rintro rfl hbound
    exact if_pos hbound
  · rintro (rfl | rfl) <;> rfl

/-- A host read of a cell the buffer has (R60). -/
theorem step_readCell {s : State} {sp : Space} {a : Nat} {rest : List Input} (h : s.inputs = .readCell sp a :: rest)
    (ha : a < s.caps.size sp) :
    step s = .next { s.takeInput rest with readData := ((s.takeInput rest).cell sp a).setWidth 32 } := by
  rw [step_input h]
  exact if_pos ha

/-- A cell that was written reads as the last value written, whatever the draw (R71). -/
theorem cell_of_lookup {s : State} {sp : Space} {a : Nat} {v : Byte} (h : Memory.lookup (s.buf sp) a = some v) :
    s.cell sp a = v := by
  rw [State.cell, h]
  rfl

/-- Settles O52: the read takes an input, which changes no buffer. -/
theorem hostCellReadsReturnTheLastWrite : Obligations.HostCellReadsReturnTheLastWrite := by
  intro s sp a rest hin ha
  refine ⟨_, step_readCell hin ha, rfl, fun v hv => ?_⟩
  exact congrArg (BitVec.setWidth 32) (cell_of_lookup (by rw [buf_takeInput]; exact hv))

end Sys2Proof.Machine

/-! PROOFS. The command word: its fields, what the decoder accepts, and the encoder (spec/30_encoding.md R80 to R85). -/

namespace Sys2Proof

/-! ### The fields of a word (R80, R81) -/

/-- The four fields spell the whole word. -/
theorem toNat_eq_fields (c : Word) :
    c.toNat = opcOf c * 2 ^ 24 + wOf c * 2 ^ 20 + rsvOf c * 2 ^ 16 + immOf c := by
  have hc := c.isLt
  simp only [opcOf, wOf, rsvOf, immOf, bits]
  omega

theorem immOf_eq (c : Word) : immOf c = bits c 15 8 * 2 ^ 8 + bits c 7 0 := by
  simp only [immOf, bits]
  omega

theorem bits_lt (c : Word) (hi lo : Nat) : bits c hi lo < 2 ^ (hi + 1 - lo) :=
  Nat.mod_lt _ (Nat.two_pow_pos _)

/-- The runs of adjacent fields that must be 0 in some row of R82. -/
theorem joined_fields (c : Word) :
    bits c 23 0 = wOf c * 2 ^ 20 + rsvOf c * 2 ^ 16 + immOf c ∧
    bits c 23 8 = wOf c * 2 ^ 12 + rsvOf c * 2 ^ 8 + bits c 15 8 ∧
    bits c 23 16 = wOf c * 2 ^ 4 + rsvOf c ∧ bits c 19 0 = rsvOf c * 2 ^ 16 + immOf c := by
  simp only [wOf, rsvOf, immOf, bits]
  omega

/-- The operand fields of the word R85 puts together. -/
theorem fields_commandWord (opc : Nat) {w imm : Nat} (hw : w < 2 ^ 4) (himm : imm < 2 ^ 16) :
    wOf (commandWord opc w imm) = w ∧ rsvOf (commandWord opc w imm) = 0 ∧ immOf (commandWord opc w imm) = imm := by
  simp only [wOf, rsvOf, immOf, bits, commandWord, BitVec.toNat_ofNat]
  omega

/-- SOFT_RESET's operand takes all the bits below the operation code. -/
theorem low_commandWord (opc : Nat) {low : Nat} (hlow : low < 2 ^ 24) : bits (commandWord opc 0 low) 23 0 = low := by
  simp only [bits, commandWord, BitVec.toNat_ofNat]
  omega

/-! ### What the decoder accepts (R82, R83) -/

/-- The words of each command: its operation code, its operands in their fields, and 0 in the fields that must be 0. -/
inductive Spells (c : Word) : Instr → Prop where
  | pkOpen (hopc : opcOf c = 0x01) (hw : wOf c = 0) (hrsv : rsvOf c = 0) (himm : immOf c = 0) : Spells c .pkOpen
  | pkAdd {w v : Nat} (hopc : opcOf c = 0x02) (hw : wOf c = w) (hrsv : rsvOf c = 0) (himm : immOf c = v) :
      Spells c (.pkAdd w v)
  | pkFinish {pre : Nat} (hopc : opcOf c = 0x03) (hw : wOf c = 0) (hrsv : rsvOf c = 0) (hhigh : bits c 15 8 = 0)
      (hpre : bits c 7 0 = pre) : Spells c (.pkFinish pre)
  | upOpen (hopc : opcOf c = 0x04) (hw : wOf c = 0) (hrsv : rsvOf c = 0) (himm : immOf c = 0) : Spells c .upOpen
  | upRead {w : Nat} (hopc : opcOf c = 0x05) (hw : wOf c = w) (hrsv : rsvOf c = 0) (himm : immOf c = 0) :
      Spells c (.upRead w)
  | upClose (hopc : opcOf c = 0x06) (hw : wOf c = 0) (hrsv : rsvOf c = 0) (himm : immOf c = 0) : Spells c .upClose
  | encRun {mcs : Nat} (hopc : opcOf c = 0x08) (hw : wOf c = 0) (hrsv : rsvOf c = 0) (himm : immOf c = mcs) :
      Spells c (.encRun mcs)
  | decRun (hopc : opcOf c = 0x09) (hw : wOf c = 0) (hrsv : rsvOf c = 0) (himm : immOf c = 0) : Spells c .decRun
  | softReset {low : Nat} (hopc : opcOf c = 0x0F) (hlow : bits c 23 0 = low) : Spells c (.softReset low)

theorem whenFields_eq_ok {holds : Bool} {i j : Instr} : whenFields holds i = .ok j ↔ holds = true ∧ i = j := by
  cases holds <;> simp [whenFields]

theorem spells_of_decode {c : Word} {i : Instr} (h : decode c = .ok i) : Spells c i := by
  unfold decode at h
  split at h
  case h_9 hopc => cases h; exact .softReset hopc rfl
  case h_10 => cases h
  all_goals
    simp only [whenFields_eq_ok, Bool.and_eq_true, beq_iff_eq] at h
    obtain ⟨hfields, rfl⟩ := h
    constructor <;> omega

theorem decode_of_spells {c : Word} {i : Instr} (h : Spells c i) : decode c = .ok i := by
  cases h <;> simp [decode, whenFields, *]

theorem decode_eq_ok_iff {c : Word} {i : Instr} : decode c = .ok i ↔ Spells c i :=
  ⟨spells_of_decode, decode_of_spells⟩

/-! ### Decoder and encoder -/

/-- Settles O2: the word's fields are the operation code and the operands, each of which fits its field. -/
theorem decodeOfEncodeIsIdentity : Obligations.DecodeOfEncodeIsIdentity := by
  intro i hwf
  refine decode_of_spells ?_
  cases i with
  | pkOpen | upOpen | upClose | decRun => constructor <;> decide
  | pkAdd w v =>
    have hopc := Laws.EncodeOpcode.pkAdd w v hwf
    simp only [wellFormed, fitsW, fitsImm, Bool.and_eq_true, decide_eq_true_eq] at hwf
    obtain ⟨hw, hrsv, himm⟩ := fields_commandWord 0x02 hwf.1 hwf.2
    exact .pkAdd hopc hw hrsv himm
  | pkFinish pre =>
    have hopc := Laws.EncodeOpcode.pkFinish pre hwf
    simp only [wellFormed, fitsPrefix, decide_eq_true_eq] at hwf
    obtain ⟨hw, hrsv, himm⟩ := fields_commandWord 0x03 (w := 0) (imm := pre) (by decide) (by omega)
    have hsplit := immOf_eq (encode (.pkFinish pre))
    have hlow := bits_lt (encode (.pkFinish pre)) 7 0
    rw [show immOf (encode (.pkFinish pre)) = pre from himm] at hsplit
    exact .pkFinish hopc hw hrsv (by omega) (by omega)
  | upRead w =>
    have hopc := Laws.EncodeOpcode.upRead w hwf
    simp only [wellFormed, fitsW, decide_eq_true_eq] at hwf
    obtain ⟨hw, hrsv, himm⟩ := fields_commandWord 0x05 (imm := 0) hwf (by decide)
    exact .upRead hopc hw hrsv himm
  | encRun mcs =>
    have hopc := Laws.EncodeOpcode.encRun mcs hwf
    simp only [wellFormed, fitsImm, decide_eq_true_eq] at hwf
    obtain ⟨hw, hrsv, himm⟩ := fields_commandWord 0x08 (w := 0) (by decide) hwf
    exact .encRun hopc hw hrsv himm
  | softReset low =>
    have hopc := Laws.EncodeOpcode.softReset low hwf
    simp only [wellFormed, fitsLow, decide_eq_true_eq] at hwf
    exact .softReset hopc (low_commandWord 0x0F hwf)

/-- A field read from a word fits the field. -/
theorem wellFormed_of_spells {c : Word} {i : Instr} (h : Spells c i) : wellFormed i = true := by
  cases h with
  | pkOpen | upOpen | upClose | decRun => rfl
  | pkAdd hopc hw hrsv himm =>
    subst hw himm
    exact Bool.and_eq_true_iff.2 ⟨decide_eq_true (bits_lt c 23 20), decide_eq_true (bits_lt c 15 0)⟩
  | pkFinish hopc hw hrsv hhigh hpre => subst hpre; exact decide_eq_true (bits_lt c 7 0)
  | upRead hopc hw => subst hw; exact decide_eq_true (bits_lt c 23 20)
  | encRun hopc hw hrsv himm => subst himm; exact decide_eq_true (bits_lt c 15 0)
  | softReset hopc hlow => subst hlow; exact decide_eq_true (bits_lt c 23 0)

/-- The word is put together again from its fields. -/
theorem encode_of_spells {c : Word} {i : Instr} (h : Spells c i) : encode i = c := by
  refine BitVec.eq_of_toNat_eq ?_
  have hword := toNat_eq_fields c
  have himm := immOf_eq c
  obtain ⟨hlow, -⟩ := joined_fields c
  have hlt := c.isLt
  cases h <;>
  · simp only [encode, commandWord, BitVec.toNat_ofNat]
    omega

/-- Settles O3: a decoded command's operands are fields of the word, and the other fields are fixed. -/
theorem encodeOfDecodeIsIdentity : Obligations.EncodeOfDecodeIsIdentity := by
  intro c i hdecode
  have hspells := spells_of_decode hdecode
  exact ⟨wellFormed_of_spells hspells, encode_of_spells hspells⟩

/-! ### The opcode map's columns (R82) -/

/-- A field of the conjunction of two words is the conjunction of the fields. -/
theorem bits_and (c d : Word) (hi lo : Nat) : bits (c &&& d) hi lo = bits c hi lo &&& bits d hi lo := by
  simp only [bits, BitVec.toNat_and, Nat.and_div_two_pow, Nat.and_mod_two_pow]

/-- Two words are equal when their fields are. -/
theorem word_eq_iff {c d : Word} :
    c = d ↔ opcOf c = opcOf d ∧ wOf c = wOf d ∧ rsvOf c = rsvOf d ∧
      bits c 15 8 = bits d 15 8 ∧ bits c 7 0 = bits d 7 0 := by
  refine ⟨fun h => by simp [h], fun h => BitVec.eq_of_toNat_eq ?_⟩
  rw [toNat_eq_fields c, toNat_eq_fields d, immOf_eq c, immOf_eq d]
  omega

/-- A row accepts a word when it accepts it field by field. -/
theorem accepts_iff (r : OpcodeRow) (c : Word) :
    r.accepts c = true ↔
      opcOf c &&& opcOf r.mask = opcOf r.pattern ∧ wOf c &&& wOf r.mask = wOf r.pattern ∧
      rsvOf c &&& rsvOf r.mask = rsvOf r.pattern ∧ bits c 15 8 &&& bits r.mask 15 8 = bits r.pattern 15 8 ∧
      bits c 7 0 &&& bits r.mask 7 0 = bits r.pattern 7 0 := by
  rw [OpcodeRow.accepts, beq_iff_eq, word_eq_iff]
  simp only [opcOf, wOf, rsvOf, bits_and]

/-- A field the mask covers whole. -/
theorem bits_and_full (c : Word) (hi lo : Nat) : bits c hi lo &&& (2 ^ (hi + 1 - lo) - 1) = bits c hi lo := by
  rw [Nat.and_two_pow_sub_one_eq_mod, Nat.mod_eq_of_lt (bits_lt c hi lo)]

theorem fields_and_full (c : Word) :
    opcOf c &&& 0xFF = opcOf c ∧ wOf c &&& 0xF = wOf c ∧ rsvOf c &&& 0xF = rsvOf c ∧
      bits c 15 8 &&& 0xFF = bits c 15 8 ∧ bits c 7 0 &&& 0xFF = bits c 7 0 :=
  ⟨bits_and_full c 31 24, bits_and_full c 23 20, bits_and_full c 19 16, bits_and_full c 15 8, bits_and_full c 7 0⟩

/-- The fields of a word written as a number. -/
theorem bits_ofNat (n hi lo : Nat) : bits (BitVec.ofNat 32 n) hi lo = n % 2 ^ 32 / 2 ^ lo % 2 ^ (hi + 1 - lo) := by
  rw [bits, BitVec.toNat_ofNat]

theorem opcodeOf_of_spells {c : Word} {i : Instr} (h : Spells c i) : opcodeOf i = opcOf c := by
  cases h <;> simp [opcodeOf, *]

/-- A word spells a command unless it is in one of R83's two lists. -/
theorem exists_spells_iff (c : Word) :
    (∃ i, Spells c i) ↔ ¬ (Machine.unassignedOpc (opcOf c) ∨ Machine.mustBeFieldSet c) := by
  obtain ⟨h0, h8, h16, h19⟩ := joined_fields c
  have hopc : opcOf c < 256 := bits_lt c 31 24
  rw [Machine.unassignedOpc, Machine.mustBeFieldSet, show bits c 19 16 = rsvOf c from rfl]
  constructor
  · rintro ⟨i, h⟩
    cases h <;> omega
  · intro h
    have hassigned : opcOf c = 1 ∨ opcOf c = 2 ∨ opcOf c = 3 ∨ opcOf c = 4 ∨ opcOf c = 5 ∨ opcOf c = 6 ∨
        opcOf c = 8 ∨ opcOf c = 9 ∨ opcOf c = 15 := by omega
    obtain h1 | h2 | h3 | h4 | h5 | h6 | h8 | h9 | h15 := hassigned
    · exact ⟨_, .pkOpen h1 (by omega) (by omega) (by omega)⟩
    · exact ⟨_, .pkAdd h2 rfl (by omega) rfl⟩
    · exact ⟨_, .pkFinish h3 (by omega) (by omega) (by omega) rfl⟩
    · exact ⟨_, .upOpen h4 (by omega) (by omega) (by omega)⟩
    · exact ⟨_, .upRead h5 rfl (by omega) (by omega)⟩
    · exact ⟨_, .upClose h6 (by omega) (by omega) (by omega)⟩
    · exact ⟨_, .encRun h8 (by omega) (by omega) rfl⟩
    · exact ⟨_, .decRun h9 (by omega) (by omega) (by omega)⟩
    · exact ⟨_, .softReset h15 rfl⟩

/-- A row of the map accepts words of its own operation code, and none of R83's lists. -/
theorem legal_of_accepts {r : OpcodeRow} {c : Word} (hr : r ∈ opcodeTable) (h : r.accepts c = true) :
    opcOf c = opcOf r.pattern ∧ ¬ (Machine.unassignedOpc (opcOf c) ∨ Machine.mustBeFieldSet c) := by
  obtain ⟨hopc, hw, hrsv, hhigh, hlow⟩ := fields_and_full c
  have himm := immOf_eq c
  obtain ⟨h0, h8, h16, h19⟩ := joined_fields c
  rw [accepts_iff] at h
  simp only [opcodeTable, List.mem_cons, List.not_mem_nil, or_false] at hr
  simp only [Machine.unassignedOpc, Machine.mustBeFieldSet]
  rcases hr with rfl | rfl | rfl | rfl | rfl | rfl | rfl | rfl | rfl <;>
  · simp only [opcOf, wOf, rsvOf, bits_ofNat, BitVec.ofNat_eq_ofNat, Nat.reducePow, Nat.reduceMod, Nat.reduceDiv,
      Nat.reduceAdd, Nat.reduceSub, Nat.and_zero] at *
    omega

/-- A command's row, the one of its operation code, asks no more of a word than the command does. -/
theorem accepts_of_spells {c : Word} {i : Instr} (h : Spells c i) :
    ∃ r ∈ opcodeTable, r.accepts c = true ∧ opcOf r.pattern = opcodeOf i := by
  obtain ⟨hopc, hw, hrsv, hhigh, hlow⟩ := fields_and_full c
  have himm := immOf_eq c
  simp only [opcodeTable, accepts_iff, List.mem_cons, List.not_mem_nil, or_false, exists_eq_or_imp, exists_eq_left]
  cases h <;> simp [opcodeOf, opcOf, wOf, rsvOf, bits_ofNat] at * <;> omega

/-- Settles O5: a word decodes to a command when it spells one. -/
theorem illegalWordsAreThoseListed : Obligations.IllegalWordsAreThoseListed := by
  intro c
  rw [← not_iff_not, ← exists_spells_iff]
  simp [decode_eq_ok_iff]

/-- Settles O4: a command's row accepts each of its words, and what a row accepts is in neither of R83's lists. -/
theorem decoderAgreesWithOpcodeMap : Obligations.DecoderAgreesWithOpcodeMap := by
  intro c k
  constructor
  · rintro ⟨i, hdecode, rfl⟩
    exact accepts_of_spells (spells_of_decode hdecode)
  · rintro ⟨r, hr, hacc, rfl⟩
    obtain ⟨hopc, hlegal⟩ := legal_of_accepts hr hacc
    obtain ⟨i, hspells⟩ := (exists_spells_iff c).2 hlegal
    exact ⟨i, decode_of_spells hspells, (opcodeOf_of_spells hspells).trans hopc⟩

/-- Settles O1: each word's fields are read off its digits. -/
theorem specWordsDecode : Obligations.SpecWordsDecode := by
  unfold Obligations.SpecWordsDecode
  decide

end Sys2Proof

/-! PROOFS. The emitted codes: their widths (spec/30_encoding.md R88) and their grammar (R93). -/

namespace Sys2Proof.Machine

/-! ### Runs of the encoder -/

/-- The data codes emitted since the latest CLEAR: each of them assigned one free code (R155, R158). -/
def Enc.sinceClear (e : Enc) : Nat := e.nf - firstFree e.m

theorem Enc.sinceClear_start (m : Nat) : (Enc.start m).sinceClear = 0 := Nat.sub_self _

/-- What assigning a code emits: the running code, and a CLEAR after it when the assigned code is the 4096th (R157). -/
theorem Enc.Inv.assign_emits {e : Enc} (h : e.Inv) (b : Nat) (dict : List ((Nat × Byte) × Nat)) :
    (e.nf < 4096 ∧ (e.assign b dict).emitted = e.emitted ++ [(b, e.cb)] ∧
      (e.assign b dict).sinceClear = e.sinceClear + 1) ∨
    (e.nf = 4096 ∧ (e.assign b dict).emitted = e.emitted ++ [(b, e.cb), (clearCode e.m, 12)] ∧
      (e.assign b dict).sinceClear = 0) := by
  obtain ⟨hfree, hnf⟩ := h.nf_ok
  have hcb := h.cb_ok.2
  have hnext : e.nf + 1 - firstFree e.m = e.nf - firstFree e.m + 1 := Nat.succ_sub hfree
  by_cases htop : e.nf = 2 ^ e.cb
  · obtain hlt | hceil := Nat.lt_or_eq_of_le hcb
    · have hpow : 2 ^ e.cb < 2 ^ 12 := Nat.pow_lt_pow_right (by decide) hlt
      rw [Enc.assign_grows b dict htop hlt]
      exact .inl ⟨by omega, rfl, hnext⟩
    · rw [Enc.assign_clears b dict htop hceil, hceil]
      exact .inr ⟨by rw [htop, hceil]; rfl, rfl, Nat.sub_self _⟩
  · have hpow : 2 ^ e.cb ≤ 2 ^ 12 := Nat.pow_le_pow_right (by decide) hcb
    rw [Enc.assign_below b dict htop]
    exact .inl ⟨by omega, rfl, hnext⟩

/-- The running code is a data code, so it is no CLEAR (R87). -/
theorem Enc.Inv.buf_ne_clear {e : Enc} (h : e.Inv) {b : Nat} (hbuf : e.buf = some b) : b ≠ clearCode e.m := by
  have hdata := (h.buf_ok b hbuf).1
  simp only [isDataCode, clearCode] at hdata ⊢
  omega

/-- A property that looks at neither the running code nor the dictionary holds along a run when it is kept by every
assigned code. -/
structure Enc.Kept (P : Enc → Prop) : Prop where
  buf    : ∀ {e : Enc}, P e → ∀ buf, P { e with buf := buf }
  assign : ∀ {e : Enc} {b : Nat}, e.Inv → e.buf = some b → P e → ∀ dict, P (e.assign b dict)

theorem Enc.Kept.consume {P : Enc → Prop} (hP : Enc.Kept P) {e : Enc} (h : e.Inv) (he : P e) (x : Byte) :
    P (e.consume x) := by
  cases hbuf : e.buf with
  | none => rw [Enc.consume_first x hbuf]; exact hP.buf he _
  | some b =>
    cases hlookup : e.dict.lookup (b, x) with
    | some c => rw [Enc.consume_hit hbuf hlookup]; exact hP.buf he _
    | none => rw [Enc.consume_miss hbuf hlookup, Enc.miss_eq]; exact hP.buf (hP.assign h hbuf he _) _

theorem Enc.Kept.foldl_consume {P : Enc → Prop} (hP : Enc.Kept P) {e : Enc} (h : e.Inv) (he : P e) {xs : List Byte}
    (hxs : indicesBelow e.m xs) : P (xs.foldl Enc.consume e) := by
  induction xs generalizing e with
  | nil => exact he
  | cons x xs ih =>
    obtain ⟨hx, hrest⟩ := List.forall_mem_cons.1 hxs
    exact ih (h.consume hx) (hP.consume h he x) (by rw [Enc.consume_m]; exact hrest)

theorem Enc.consume_buf (e : Enc) (x : Byte) : ∃ b, (e.consume x).buf = some b := by
  cases hbuf : e.buf with
  | none => exact ⟨_, by rw [Enc.consume_first x hbuf]⟩
  | some b =>
    cases hlookup : e.dict.lookup (b, x) with
    | some c => exact ⟨_, by rw [Enc.consume_hit hbuf hlookup]⟩
    | none => exact ⟨_, by rw [Enc.consume_miss hbuf hlookup, Enc.miss_eq]⟩

/-- After the first index there is a running code (R154, R155). -/
theorem Enc.foldl_consume_buf (e : Enc) {xs : List Byte} (hxs : xs ≠ []) :
    ∃ b, (xs.foldl Enc.consume e).buf = some b := by
  obtain ⟨ys, y, rfl⟩ := (List.eq_nil_or_concat xs).resolve_left hxs
  rw [List.concat_eq_append, List.foldl_append]
  exact Enc.consume_buf _ y

/-- A whole run: an encoder with a running code `b` in its ranges, whose flush assigns one more code, then EOI. -/
theorem encCodes_run {P : Enc → Prop} (hP : Enc.Kept P) {m : Nat} {xs : List Byte} (h2 : 2 ≤ m) (h8 : m ≤ 8)
    (hne : xs ≠ []) (hxs : indicesBelow m xs) (hstart : P (Enc.start m)) :
    ∃ e b, e.m = m ∧ e.Inv ∧ P e ∧ e.buf = some b ∧
      encCodes xs m = (e.assign b e.dict).emitted ++ [(eoiCode m, (e.assign b e.dict).cb)] := by
  obtain ⟨b, hb⟩ := Enc.foldl_consume_buf (Enc.start m) hne
  refine ⟨_, b, Enc.foldl_consume_m xs _, (Enc.start_inv h2 h8).foldl_consume hxs,
    hP.foldl_consume (Enc.start_inv h2 h8) hstart hxs, hb, ?_⟩
  rw [encCodes_eq, Enc.flush_eq hb]
  rfl

/-! ### Widths (R88) -/

/-- `w(m, j)` read off the powers of two around the next free code. -/
theorem widthAfter_eq {m j c : Nat} (hlow : 2 ^ c < firstFree m + j) (hhigh : firstFree m + j ≤ 2 ^ (c + 1))
    (hc : c < 12) : widthAfter m j = c + 1 := by
  simp only [firstFree] at hlow hhigh
  have hlog : Nat.log2 (2 ^ m + 1 + j) = c := (Nat.log2_eq_iff (by omega)).2 ⟨by omega, by omega⟩
  rw [widthAfter, bitlen, hlog]
  omega

/-- The CLEAR at the ceiling is 12 bits wide like the code before it. -/
theorem widthAfter_ceiling {m j : Nat} (h : firstFree m + j = 4097) : widthAfter m j = 12 := by
  simp only [firstFree] at h
  have hlog : Nat.log2 (2 ^ m + 1 + j) = 12 := by rw [show 2 ^ m + 1 + j = 4096 by omega]; rfl
  rw [widthAfter, bitlen, hlog]
  rfl

/-- What R88 says of a run so far: the next free code needs all bits of the current width, and any codes that go on with
the right widths complete the emitted ones to a list with the right widths. -/
structure Enc.WidthsOk (e : Enc) : Prop where
  low     : 2 ^ e.cb < 2 * e.nf
  follows : ∀ rest, followsWidths e.m e.sinceClear rest → followsWidths e.m 0 (e.emitted ++ rest)

/-- The current width is R88's for the data codes since the latest CLEAR. -/
theorem Enc.Inv.cb_eq {e : Enc} (h : e.Inv) (hw : e.WidthsOk) : e.cb = widthAfter e.m e.sinceClear := by
  obtain ⟨hfree, hnf⟩ := h.nf_ok
  obtain ⟨hm, hcb⟩ := h.cb_ok
  obtain ⟨c, hc⟩ : ∃ c, e.cb = c + 1 := ⟨e.cb - 1, by omega⟩
  have hlow := hw.low
  have hcount : firstFree e.m + e.sinceClear = e.nf := Nat.add_sub_of_le hfree
  rw [hc] at hnf hlow ⊢
  rw [Nat.pow_succ] at hlow
  exact (widthAfter_eq (by omega) (by omega) (by omega)).symm

theorem followsWidths_clear {m j w : Nat} {rest : List (Nat × Nat)} :
    followsWidths m j ((clearCode m, w) :: rest) ↔ w = widthAfter m j ∧ followsWidths m 0 rest := by
  simp [followsWidths]

theorem followsWidths_data {m j c w : Nat} {rest : List (Nat × Nat)} (hc : c ≠ clearCode m) :
    followsWidths m j ((c, w) :: rest) ↔ w = widthAfter m j ∧ followsWidths m (j + 1) rest := by
  simp [followsWidths, hc]

theorem Enc.start_widthsOk {m : Nat} (h2 : 2 ≤ m) (h8 : m ≤ 8) : (Enc.start m).WidthsOk where
  low := by simp only [Enc.start, firstFree, Nat.pow_succ]; omega
  follows := fun rest hrest => by
    have hlow : 2 ^ m < firstFree m := by simp [firstFree]
    exact followsWidths_clear.2
      ⟨(widthAfter_eq hlow (firstFree_lt_two_pow h2).le (by omega)).symm, by rwa [Enc.sinceClear_start] at hrest⟩

theorem Enc.Inv.assign_low {e : Enc} (h : e.Inv) (hlow : 2 ^ e.cb < 2 * e.nf) (b : Nat)
    (dict : List ((Nat × Byte) × Nat)) : 2 ^ (e.assign b dict).cb < 2 * (e.assign b dict).nf := by
  by_cases htop : e.nf = 2 ^ e.cb
  · obtain hlt | hceil := Nat.lt_or_eq_of_le h.cb_ok.2
    · rw [Enc.assign_grows b dict htop hlt, Nat.pow_succ]
      simp only
      omega
    · rw [Enc.assign_clears b dict htop hceil, Nat.pow_succ]
      simp only
      omega
  · rw [Enc.assign_below b dict htop]
    simp only
    omega

/-- An assigned code keeps the widths: what goes on after it goes on, with the codes it emits before it, after the old
run. -/
theorem Enc.widthsOk_kept : Enc.Kept Enc.WidthsOk where
  buf := fun h buf => ⟨h.low, h.follows⟩
  assign := fun {e b} h hbuf hw dict => by
    refine ⟨h.assign_low hw.low b dict, fun rest hrest => ?_⟩
    have hcb := h.cb_eq hw
    have hb := h.buf_ne_clear hbuf
    rw [Enc.assign_m] at hrest ⊢
    obtain ⟨-, hemitted, hcount⟩ | ⟨hceil, hemitted, hcount⟩ := h.assign_emits b dict
    · rw [hemitted, List.append_assoc]
      exact hw.follows _ ((followsWidths_data hb).2 ⟨hcb, hcount ▸ hrest⟩)
    · have hnext : firstFree e.m + (e.sinceClear + 1) = 4097 := by
        rw [Enc.sinceClear]
        have := h.nf_ok.1
        omega
      rw [hemitted, List.append_assoc]
      exact hw.follows _ ((followsWidths_data hb).2
        ⟨hcb, followsWidths_clear.2 ⟨(widthAfter_ceiling hnext).symm, hcount ▸ hrest⟩⟩)

/-- Settles O34: every assigned code keeps the widths, and EOI has the width the flush leaves. -/
theorem emittedWidthsFollowTheFormula : Obligations.EmittedWidthsFollowTheFormula := by
  intro m xs h2 h8 hne hxs
  obtain ⟨e, b, rfl, hinv, hw, hbuf, hcodes⟩ :=
    encCodes_run Enc.widthsOk_kept h2 h8 hne hxs (Enc.start_widthsOk h2 h8)
  have hflush : (e.assign b e.dict).WidthsOk := Enc.widthsOk_kept.assign hinv hbuf hw e.dict
  have hranges := hinv.flush
  rw [Enc.flush_eq hbuf] at hranges
  have hcb := hranges.cb_eq (Enc.widthsOk_kept.buf hflush none)
  rw [hcodes]
  have hfollows := hflush.follows [(eoiCode e.m, (e.assign b e.dict).cb)] ⟨hcb, trivial⟩
  rwa [Enc.assign_m] at hfollows

/-! ### Grammar (R93) -/

/-- `CLEAR (DATA^J CLEAR)* DATA^j`: the full segments `full` and the data codes `last` after them. -/
structure Enc.Segments (e : Enc) (full : List (List Nat)) (last : List Nat) : Prop where
  codes   : e.emitted.map Prod.fst = clearCode e.m :: (full.flatMap (· ++ [clearCode e.m]) ++ last)
  full_ok : ∀ seg ∈ full, seg.length = jMax e.m ∧ ∀ c ∈ seg, isDataCode e.m c
  last_ok : ∀ c ∈ last, isDataCode e.m c
  count   : last.length = e.sinceClear

theorem Enc.Segments.last_append {e : Enc} {full : List (List Nat)} {last : List Nat} (hs : e.Segments full last)
    (h : e.Inv) {b : Nat} (hbuf : e.buf = some b) : ∀ c ∈ last ++ [b], isDataCode e.m c :=
  List.forall_mem_append.2 ⟨hs.last_ok, List.forall_mem_singleton.2 (h.buf_ok b hbuf).1⟩

/-- One more data code lengthens the last segment; the one that fills it closes it with a CLEAR. -/
theorem Enc.Segments.assign {e : Enc} {full : List (List Nat)} {last : List Nat} (hs : e.Segments full last)
    (h : e.Inv) {b : Nat} (hbuf : e.buf = some b) (dict : List ((Nat × Byte) × Nat)) :
    ((last ++ [b]).length < jMax e.m ∧ (e.assign b dict).Segments full (last ++ [b])) ∨
    ((last ++ [b]).length = jMax e.m ∧ (e.assign b dict).Segments (full ++ [last ++ [b]]) []) := by
  have hfree := h.nf_ok.1
  have hcodes := hs.codes
  have hcount : last.length = e.nf - firstFree e.m := hs.count
  have hlast := hs.last_append h hbuf
  have hlen : (last ++ [b]).length = last.length + 1 := List.length_append
  obtain ⟨hlt, hemitted, hnext⟩ | ⟨hceil, hemitted, hnext⟩ := h.assign_emits b dict
  · refine .inl ⟨by simp only [jMax, firstFree] at *; omega, ?_⟩
    exact {
      codes := by simp [hemitted, hs.codes]
      full_ok := by rw [Enc.assign_m]; exact hs.full_ok
      last_ok := by rw [Enc.assign_m]; exact hlast
      count := by rw [hlen, hnext, hs.count] }
  · have hfull : (last ++ [b]).length = jMax e.m := by simp only [jMax, firstFree] at *; omega
    refine .inr ⟨hfull, ?_⟩
    exact {
      codes := by simp [hemitted, hs.codes]
      full_ok := by
        rw [Enc.assign_m]
        exact List.forall_mem_append.2 ⟨hs.full_ok, List.forall_mem_singleton.2 ⟨hfull, hlast⟩⟩
      last_ok := List.forall_mem_nil _
      count := hnext.symm }

theorem Enc.start_segments (m : Nat) : (Enc.start m).Segments [] [] where
  codes := rfl
  full_ok := List.forall_mem_nil _
  last_ok := List.forall_mem_nil _
  count := (Enc.sinceClear_start m).symm

theorem Enc.segments_kept : Enc.Kept fun e => ∃ full last, e.Segments full last where
  buf := fun ⟨full, last, hs⟩ buf => ⟨full, last, hs.codes, hs.full_ok, hs.last_ok, hs.count⟩
  assign := fun h hbuf ⟨full, last, hs⟩ dict => by
    obtain ⟨-, hnext⟩ | ⟨-, hnext⟩ := hs.assign h hbuf dict <;> exact ⟨_, _, hnext⟩

/-- Settles O35: the flush adds the last data code, after which the last segment is full exactly when a CLEAR closed
it. -/
theorem emittedCodesFollowTheGrammar : Obligations.EmittedCodesFollowTheGrammar := by
  intro m xs h2 h8 hne hxs
  obtain ⟨e, b, rfl, hinv, ⟨full, last, hs⟩, hbuf, hcodes⟩ :=
    encCodes_run Enc.segments_kept h2 h8 hne hxs ⟨[], [], Enc.start_segments m⟩
  have hpos : 1 ≤ (last ++ [b]).length := by simp
  obtain ⟨hlen, hnext⟩ | ⟨hlen, hnext⟩ := hs.assign hinv hbuf e.dict
  all_goals
    refine ⟨full, last ++ [b], ?_, hs.full_ok, hpos, hlen.le, hs.last_append hinv hbuf⟩
    rw [hcodes, List.map_append, hnext.codes, Enc.assign_m]
  · rw [if_neg hlen.ne]
    simp
  · rw [if_pos hlen]
    simp

end Sys2Proof.Machine

/-! PROOFS. Payload and frame: a list cut from the front into pieces, of 8 bits and of 255 bytes (spec/30_encoding.md R90
to R92). -/

namespace Sys2Proof.Machine

/-! ### Cutting a list from the front -/

/-- `k` counts a piece of `d` elements when the piece begins below `n`. -/
theorem lt_ceilDiv {d : Nat} (hd : 0 < d) {k n : Nat} : k < ceilDiv n d ↔ d * k < n := by
  rw [ceilDiv, ← Nat.succ_le_iff, Nat.le_div_iff_mul_le hd, Nat.succ_mul, Nat.mul_comm]
  omega

theorem ceilDiv_eq_succ {d : Nat} (hd : 0 < d) {n : Nat} (hn : 0 < n) : ceilDiv n d = ceilDiv (n - d) d + 1 := by
  refine eq_of_forall_lt_iff fun k => ?_
  cases k with
  | zero => simp [lt_ceilDiv hd, hn]
  | succ k => rw [Nat.succ_lt_succ_iff, lt_ceilDiv hd, lt_ceilDiv hd, Nat.mul_succ]; omega

/-- A list cut from the front into pieces of `d`, the last taking what is left. -/
def cut {α : Type} (d : Nat) (l : List α) : List (List α) :=
  (List.range (ceilDiv l.length d)).map fun k => (l.drop (d * k)).take d

section
variable {α : Type} {d : Nat} (hd : 0 < d) (l : List α)

theorem length_cut (d : Nat) (l : List α) : (cut d l).length = ceilDiv l.length d := by
  simp [cut]

include hd

theorem cut_nil : cut d ([] : List α) = [] := by
  rw [← List.length_eq_zero_iff, length_cut, ceilDiv, List.length_nil, Nat.zero_add]
  exact Nat.div_eq_of_lt (Nat.sub_lt hd Nat.one_pos)

theorem cut_of_ne_nil {l : List α} (hl : l ≠ []) : cut d l = l.take d :: cut d (l.drop d) := by
  rw [cut, ceilDiv_eq_succ hd (List.length_pos_of_ne_nil hl), List.range_succ_eq_map, cut, List.length_drop]
  simp [Nat.mul_succ, Nat.add_comm]

/-- Induction along the pieces of a list. -/
theorem cut_induction {P : List α → Prop} (nil : P []) (step : ∀ l, l ≠ [] → P (l.drop d) → P l) : P l := by
  induction hn : l.length using Nat.strong_induction_on generalizing l with
  | _ n ih =>
    by_cases hl : l = []
    · exact hl ▸ nil
    · have hpos := List.length_pos_of_ne_nil hl
      exact step l hl (ih _ (by rw [List.length_drop]; omega) _ rfl)

theorem flatten_cut : (cut d l).flatten = l := by
  induction l using cut_induction hd with
  | nil => rw [cut_nil hd]; rfl
  | step l hl ih => rw [cut_of_ne_nil hd hl, List.flatten_cons, ih, List.take_append_drop]

/-- No piece is empty, and none is longer than `d`. -/
theorem length_of_mem_cut {c : List α} (hc : c ∈ cut d l) : 1 ≤ c.length ∧ c.length ≤ d := by
  obtain ⟨k, hk, rfl⟩ := List.mem_map.1 hc
  have hbegin := (lt_ceilDiv hd).1 (List.mem_range.1 hk)
  rw [List.length_take, List.length_drop]
  omega

/-- Every piece but the last is full. -/
theorem length_of_mem_dropLast_cut {c : List α} (hc : c ∈ (cut d l).dropLast) : c.length = d := by
  induction l using cut_induction hd with
  | nil => rw [cut_nil hd] at hc; cases hc
  | step l hl ih =>
    rw [cut_of_ne_nil hd hl] at hc
    by_cases hrest : l.drop d = []
    · rw [hrest, cut_nil hd] at hc; cases hc
    · rw [cut_of_ne_nil hd hrest, List.dropLast_cons_cons, ← cut_of_ne_nil hd hrest, List.mem_cons] at hc
      obtain rfl | hc := hc
      · have hlen := List.length_pos_of_ne_nil hrest
        rw [List.length_drop] at hlen
        rw [List.length_take]
        omega
      · exact ih hc

end

/-! ### Payload (R90) and frame (R91, R92) -/

theorem payload_eq_map_cut (bs : List Bool) : payload bs = (cut 8 bs).map fun c => BitVec.ofNat 8 (bitsValue c) := by
  rw [payload, cut, List.map_map]
  rfl

theorem frame_eq_cut (pre : Byte) (bs : List Bool) :
    frame pre bs = pre :: (cut 255 (payload bs)).flatMap withLength ++ [0] := by
  rw [frame, subBlocks, cut, List.flatMap_map]
  rfl

/-- Settles O18: a payload byte is the number of its piece of the stream, whose bits are the stream's. -/
theorem payloadBytesHoldTheStreamBits : Obligations.PayloadBytesHoldTheStreamBits := by
  intro bs q i
  refine ⟨by simp [payload], fun hq hi => ⟨payloadByte bs q, by simp [payload, hq], ?_⟩⟩
  rw [payloadByte, BitVec.getLsbD_ofNat, testBit_bitsValue, List.getElem?_take_of_lt hi, List.getElem?_drop]
  simp [hi]

/-- Settles O19: the sub-blocks are the pieces of 255 bytes of the payload. -/
theorem frameIsPrefixSubBlocksTerminator : Obligations.FrameIsPrefixSubBlocksTerminator := by
  intro pre bs
  have hd : 0 < 255 := by decide
  exact ⟨cut 255 (payload bs), frame_eq_cut pre bs, fun b hb => length_of_mem_cut hd _ hb,
    fun b hb => length_of_mem_dropLast_cut hd _ hb, flatten_cut hd _, length_cut _ _⟩

/-! ### The bits of the payload -/

/-- The bits of a byte, the low-order bit first (R66). -/
def byteBits (b : Byte) : List Bool := (List.range 8).map b.getLsbD

/-- The bits of the number of at most 8 bits: those bits, then zeros. -/
theorem byteBits_bitsValue {bs : List Bool} (hc : bs.length ≤ 8) :
    byteBits (BitVec.ofNat 8 (bitsValue bs)) = bs ++ List.replicate (8 - bs.length) false := by
  refine List.ext_getElem? fun i => ?_
  by_cases hi : i < 8
  · have hbit : (byteBits (BitVec.ofNat 8 (bitsValue bs)))[i]? = some ((bs[i]?).getD false) := by
      rw [byteBits, List.getElem?_map, List.getElem?_range hi, Option.map_some, BitVec.getLsbD_ofNat,
        testBit_bitsValue, decide_eq_true hi, Bool.true_and]
    rw [hbit]
    by_cases hic : i < bs.length
    · rw [List.getElem?_append_left hic, List.getElem?_eq_getElem hic]
      rfl
    · rw [List.getElem?_append_right (by omega), List.getElem?_replicate_of_lt (by omega),
        List.getElem?_eq_none (by omega)]
      rfl
  · rw [List.getElem?_eq_none (by simp [byteBits]; omega), List.getElem?_eq_none (by simp; omega)]

/-- The payload's bits are the stream's, and fewer than 8 zeros after them. -/
theorem payload_bits (bs : List Bool) :
    ∃ pad, pad.length < 8 ∧ (payload bs).flatMap byteBits = bs ++ pad := by
  have hd : 0 < 8 := by decide
  rw [payload_eq_map_cut, List.flatMap_map]
  induction bs using cut_induction hd with
  | nil => exact ⟨[], by decide, rfl⟩
  | step bs hbs ih =>
    rw [cut_of_ne_nil hd hbs, List.flatMap_cons, byteBits_bitsValue (List.length_take_le 8 bs)]
    obtain hshort | hfull := Nat.lt_or_ge bs.length 8
    · have hpos := List.length_pos_of_ne_nil hbs
      rw [List.take_of_length_le hshort.le, List.drop_eq_nil_of_le hshort.le, cut_nil hd]
      exact ⟨List.replicate (8 - bs.length) false, by rw [List.length_replicate]; omega, List.append_nil _⟩
    · obtain ⟨pad, hpad, hbits⟩ := ih
      refine ⟨pad, hpad, ?_⟩
      rw [hbits, List.length_take, Nat.min_eq_left hfull, Nat.sub_self, List.replicate_zero, List.append_nil,
        ← List.append_assoc, List.take_append_drop]

end Sys2Proof.Machine

/-! PROOFS. Reading back what was packed (spec/41_bit_unpacker.md R132 to R136): the bits a cursor finds in a frame. -/

namespace Sys2Proof.Machine

/-! ### The bits that come next -/

/-- From the cursor `u` the next bits are those of the list, and they leave the cursor `v` (R132). -/
def Cursor.Feeds (rd : Nat → Byte) : List Bool → Cursor → Cursor → Prop
  | [], u, v => v = u
  | b :: bs, u, v => ∃ u1, nextBit rd u = .ok (b, u1) ∧ Feeds rd bs u1 v

section
variable {rd : Nat → Byte}

theorem Cursor.feeds_append {as bs : List Bool} {u v : Cursor} :
    Cursor.Feeds rd (as ++ bs) u v ↔ ∃ w, Cursor.Feeds rd as u w ∧ Cursor.Feeds rd bs w v := by
  induction as generalizing u with
  | nil => simp [Cursor.Feeds]
  | cons a as ih =>
    simp only [List.cons_append, Cursor.Feeds, ih]
    constructor
    · rintro ⟨u1, hbit, w, has, hbs⟩
      exact ⟨w, ⟨u1, hbit, has⟩, hbs⟩
    · rintro ⟨w, ⟨u1, hbit, has⟩, hbs⟩
      exact ⟨u1, hbit, w, has, hbs⟩

/-! ### Reads (R134, R136) -/

theorem Cursor.Feeds.readValue {bs : List Bool} {u v : Cursor} (h : Cursor.Feeds rd bs u v) :
    readValue rd bs.length u = .ok (bitsValue bs, v) := by
  induction bs generalizing u with
  | nil => cases h; rfl
  | cons b bs ih =>
    obtain ⟨u1, hbit, hrest⟩ := h
    simp only [List.length_cons, Machine.readValue, hbit, ih hrest, bitsValue]

theorem Cursor.Feeds.readCode {bs : List Bool} {u v : Cursor} (h : Cursor.Feeds rd bs u v) :
    ∃ start, readCode rd bs.length u = .ok ⟨bitsValue bs, start, v⟩ := by
  cases bs with
  | nil => cases h; exact ⟨_, rfl⟩
  | cons b bs =>
    obtain ⟨u1, hbit, hrest⟩ := h
    exact ⟨u1.curpos, by simp only [List.length_cons, Machine.readCode, hbit, hrest.readValue, bitsValue]⟩

/-- The number of the low bits of a value (R112, R134). -/
theorem bitsValue_lowBits (v w : Nat) : bitsValue (lowBits v w) = v % 2 ^ w := by
  refine Nat.eq_of_testBit_eq fun i => ?_
  rw [testBit_bitsValue, Nat.testBit_mod_two_pow]
  by_cases hi : i < w <;> simp [lowBits, hi]

/-- Reading the widths of the codes whose bits come next gives the codes. -/
theorem Cursor.Feeds.readAll {codes : List (Nat × Nat)} {u v : Cursor} (h : Cursor.Feeds rd (codeBits codes) u v) :
    readAll rd (codes.map Prod.snd) u = .ok (codes.map fun cw => cw.1 % 2 ^ cw.2, v) := by
  induction codes generalizing u with
  | nil => cases h; rfl
  | cons cw codes ih =>
    rw [codeBits, List.flatMap_cons, Cursor.feeds_append] at h
    obtain ⟨w, hcode, hrest⟩ := h
    obtain ⟨start, hread⟩ := hcode.readCode
    rw [show (lowBits cw.1 cw.2).length = cw.2 by simp [lowBits], bitsValue_lowBits] at hread
    simp only [List.map_cons, Machine.readAll, hread, ih hrest]

/-! ### The bits of a byte -/

/-- The current byte is used up; `pos` is next to be consumed, and `rem` payload bytes of the sub-block are left. -/
structure Cursor.AtByte (u : Cursor) (pos rem len : Nat) : Prop where
  boff_eq : u.boff = 8
  pos_eq  : u.pos = pos
  rem_eq  : u.rem = rem
  len_eq  : u.len = len

theorem Cursor.AtByte.eq {u : Cursor} {pos rem len : Nat} (h : u.AtByte pos rem len) :
    u = ⟨pos, len, rem, u.cur, 8, u.curpos⟩ := by
  obtain ⟨hboff, rfl, rfl, rfl⟩ := h
  rw [← hboff]

/-- A fetch moves no bit: what follows it is what came next before it. -/
theorem Cursor.Feeds.of_fetchByte {bs : List Bool} {u u1 v : Cursor} (hne : bs ≠ [])
    (hfetch : fetchByte rd u = fetchByte rd u1) (h : Cursor.Feeds rd bs u1 v) : Cursor.Feeds rd bs u v := by
  cases bs with
  | nil => exact absurd rfl hne
  | cons b bs =>
    obtain ⟨u2, hbit, hrest⟩ := h
    refine ⟨u2, ?_, hrest⟩
    rwa [nextBit, hfetch]

theorem fetchByte_of_unread {u : Cursor} (h : u.boff ≠ 8) : fetchByte rd u = .ok u := by
  rw [fetchByte, if_pos h]

/-- A byte just fetched gives its bits, the low-order one first. -/
theorem Cursor.feeds_current {u : Cursor} (hboff : u.boff = 0) :
    Cursor.Feeds rd (byteBits u.cur) u { u with boff := 8 } := by
  obtain ⟨pos, len, rem, cur, boff, curpos⟩ := u
  subst hboff
  simp [byteBits, List.range_succ, Cursor.Feeds, nextBit, fetchByte_of_unread]

/-- The next payload byte of the sub-block (R132). -/
theorem Cursor.AtByte.feeds_byte {u : Cursor} {pos rem len : Nat} (h : u.AtByte pos (rem + 1) len) (hlen : pos < len) :
    ∃ v, Cursor.Feeds rd (byteBits (rd pos)) u v ∧ v.AtByte (pos + 1) rem len := by
  have hfetched : fetchByte rd ⟨pos + 1, len, rem, rd pos, 0, pos⟩ = .ok ⟨pos + 1, len, rem, rd pos, 0, pos⟩ :=
    fetchByte_of_unread (by simp)
  rw [h.eq]
  refine ⟨_, .of_fetchByte (List.cons_ne_nil _ _) ?_
    (Cursor.feeds_current (u := ⟨pos + 1, len, rem, rd pos, 0, pos⟩) rfl), ⟨rfl, rfl, rfl, rfl⟩⟩
  rw [hfetched]
  simp [fetchByte, nextBlock, nextPayload, Nat.not_le.2 hlen]

/-! ### The bits of a frame (R91, R92) -/

theorem holdsAt_cons {p : Nat} {b : Byte} {bytes : List Byte} :
    holdsAt rd p (b :: bytes) ↔ rd p = b ∧ holdsAt rd (p + 1) bytes := by
  simp only [holdsAt, List.length_cons]
  constructor
  · intro h
    refine ⟨(Option.some.inj (h 0 (Nat.succ_pos _))).symm, fun i hi => ?_⟩
    rw [Nat.add_right_comm]
    exact h (i + 1) (Nat.succ_lt_succ hi)
  · rintro ⟨rfl, h⟩ i hi
    cases i with
    | zero => rfl
    | succ i =>
      rw [← Nat.add_assoc, Nat.add_right_comm]
      exact h i (Nat.lt_of_succ_lt_succ hi)

theorem holdsAt_append {p : Nat} {as bs : List Byte} :
    holdsAt rd p (as ++ bs) ↔ holdsAt rd p as ∧ holdsAt rd (p + as.length) bs := by
  induction as generalizing p with
  | nil => simp [holdsAt]
  | cons a as ih =>
    rw [List.cons_append, holdsAt_cons, holdsAt_cons, ih, and_assoc, List.length_cons, Nat.add_right_comm p,
      Nat.add_assoc p]

/-- The payload bytes left in a sub-block. -/
theorem Cursor.AtByte.feeds_bytes {bytes : List Byte} {u : Cursor} {pos len : Nat} (h : u.AtByte pos bytes.length len)
    (hold : holdsAt rd pos bytes) (hlen : pos + bytes.length ≤ len) :
    ∃ v, Cursor.Feeds rd (bytes.flatMap byteBits) u v ∧ v.AtByte (pos + bytes.length) 0 len := by
  induction bytes generalizing u pos with
  | nil => exact ⟨u, rfl, h⟩
  | cons b bytes ih =>
    obtain ⟨rfl, hrest⟩ := holdsAt_cons.1 hold
    rw [List.length_cons] at h hlen ⊢
    obtain ⟨w, hbyte, hw⟩ := h.feeds_byte (by omega)
    obtain ⟨v, hbytes, hv⟩ := ih hw hrest (by omega)
    rw [List.flatMap_cons, Nat.add_comm bytes.length, ← Nat.add_assoc]
    exact ⟨v, Cursor.feeds_append.2 ⟨w, hbyte, hbytes⟩, hv⟩

/-- A whole sub-block: its length byte is consumed together with its first byte (R132). -/
theorem Cursor.AtByte.feeds_block {block : List Byte} {u : Cursor} {pos len : Nat} (h : u.AtByte pos 0 len)
    (hblock : 1 ≤ block.length ∧ block.length ≤ 255) (hold : holdsAt rd pos (withLength block))
    (hlen : pos + (withLength block).length ≤ len) :
    ∃ v, Cursor.Feeds rd (block.flatMap byteBits) u v ∧ v.AtByte (pos + (withLength block).length) 0 len := by
  obtain ⟨hpos, hmax⟩ := hblock
  obtain ⟨hcount, hrest⟩ := holdsAt_cons.1 hold
  have hsize : (withLength block).length = 1 + block.length := Nat.add_comm _ _
  have hbyte : (rd pos).toNat = block.length := by
    rw [hcount, BitVec.toNat_ofNat, Nat.mod_eq_of_lt (by omega)]
  rw [hsize, ← Nat.add_assoc] at hlen ⊢
  obtain ⟨v, hbits, hv⟩ := Cursor.AtByte.feeds_bytes (u := ⟨pos + 1, len, block.length, u.cur, 8, u.curpos⟩)
    ⟨rfl, rfl, rfl, rfl⟩ hrest hlen
  refine ⟨v, .of_fetchByte ?_ ?_ hbits, hv⟩
  · obtain ⟨b, bytes, rfl⟩ := List.exists_cons_of_length_pos hpos
    exact List.cons_ne_nil _ _
  · have hne : rd pos ≠ 0#8 := fun hzero => by rw [hzero, BitVec.toNat_zero] at hbyte; omega
    have hopen : ¬ len ≤ pos := by omega
    rw [h.eq]
    simp [fetchByte, nextBlock, hne, hopen, hbyte, Nat.ne_of_gt hpos]

theorem Cursor.AtByte.feeds_blocks {blocks : List (List Byte)} {u : Cursor} {pos len : Nat} (h : u.AtByte pos 0 len)
    (hblocks : ∀ b ∈ blocks, 1 ≤ b.length ∧ b.length ≤ 255) (hold : holdsAt rd pos (blocks.flatMap withLength))
    (hlen : pos + (blocks.flatMap withLength).length ≤ len) :
    ∃ v, Cursor.Feeds rd (blocks.flatten.flatMap byteBits) u v ∧
      v.AtByte (pos + (blocks.flatMap withLength).length) 0 len := by
  induction blocks generalizing u pos with
  | nil => exact ⟨u, rfl, h⟩
  | cons b blocks ih =>
    obtain ⟨hb, hrest⟩ := List.forall_mem_cons.1 hblocks
    rw [List.flatMap_cons] at hold hlen ⊢
    rw [List.length_append, ← Nat.add_assoc] at hlen ⊢
    obtain ⟨hhold, hholds⟩ := holdsAt_append.1 hold
    obtain ⟨w, hblock, hw⟩ := h.feeds_block hb hhold (by omega)
    obtain ⟨v, hbits, hv⟩ := ih hw hrest hholds hlen
    rw [List.flatten_cons, List.flatMap_append]
    exact ⟨v, Cursor.feeds_append.2 ⟨w, hblock, hbits⟩, hv⟩

/-! ### The end of the stream -/

theorem Cursor.Feeds.boff_le {bs : List Bool} {u v : Cursor} (h : Cursor.Feeds rd bs u v) :
    v.boff ≤ u.boff + bs.length := by
  induction bs generalizing u with
  | nil => cases h; exact le_rfl
  | cons b bs ih =>
    obtain ⟨u1, hbit, hrest⟩ := h
    obtain ⟨u2, hfetch, -, rfl⟩ := nextBit_ok hbit
    have hle := ih hrest
    obtain ⟨-, rfl⟩ | ⟨-, -, -, rfl⟩ | ⟨-, -, -, -, rfl⟩ := fetchByte_ok hfetch <;>
    · simp only [List.length_cons] at hle ⊢
      omega

/-- Fewer than 8 bits that use up a byte are all in it: no byte is consumed for them. -/
theorem Cursor.Feeds.same_byte {bs : List Bool} {u v : Cursor} (h : Cursor.Feeds rd bs u v) (hbs : bs.length < 8)
    (hv : v.boff = 8) : u.pos = v.pos ∧ u.rem = v.rem ∧ u.len = v.len := by
  induction bs generalizing u with
  | nil => cases h; exact ⟨rfl, rfl, rfl⟩
  | cons b bs ih =>
    obtain ⟨u1, hbit, hrest⟩ := h
    obtain ⟨u2, hfetch, -, rfl⟩ := nextBit_ok hbit
    have hle := hrest.boff_le
    rw [List.length_cons] at hbs
    obtain ⟨-, rfl⟩ | ⟨-, -, -, rfl⟩ | ⟨-, -, -, -, rfl⟩ := fetchByte_ok hfetch
    · have hlast := ih hrest (by omega)
      exact hlast
    · simp only at hle; omega
    · simp only at hle; omega

/-- The bits of a frame come next at the byte after its first one, and after them the end-of-stream check finds the
terminator (R119, R135). -/
theorem feeds_frame {pre : Byte} {bs : List Bool} {p n : Nat} (hold : holdsAt rd p (frame pre bs))
    (hlen : p + (frame pre bs).length ≤ n) :
    ∃ u, Cursor.Feeds rd bs (Cursor.openAt (p + 1) n) u ∧ closeStream rd u = .ok (p + (frame pre bs).length) := by
  have hd : 0 < 255 := by decide
  rw [frame_eq_cut, List.cons_append] at hold hlen ⊢
  rw [List.length_cons, List.length_append, List.length_singleton] at hlen ⊢
  obtain ⟨-, hrest⟩ := holdsAt_cons.1 hold
  obtain ⟨hblocks, hzero⟩ := holdsAt_append.1 hrest
  have hopen : (Cursor.openAt (p + 1) n).AtByte (p + 1) 0 n := ⟨rfl, rfl, rfl, rfl⟩
  obtain ⟨w, hbits, hboff, hpos, hrem, hwlen⟩ :=
    hopen.feeds_blocks (fun b hb => length_of_mem_cut hd _ hb) hblocks (by omega)
  obtain ⟨pad, hpad, hpayload⟩ := payload_bits bs
  rw [flatten_cut hd, hpayload] at hbits
  obtain ⟨u, hfeeds, htail⟩ := Cursor.feeds_append.1 hbits
  obtain ⟨hupos, hurem, hulen⟩ := htail.same_byte hpad hboff
  have hend : u.pos = p + 1 + ((cut 255 (payload bs)).flatMap withLength).length := hupos.trans hpos
  refine ⟨u, hfeeds, closeStream_ok.2 ⟨hurem.trans hrem, by omega, ?_, by omega⟩⟩
  rw [hend]
  exact (holdsAt_cons.1 hzero).1

end

/-- Settles O29: the packed bits come next, each code's in its width, up to the terminator. -/
theorem unpackerInvertsPacker : Obligations.UnpackerInvertsPacker := by
  intro codes pre rd p n _ hold hlen
  obtain ⟨u, hfeeds, hclose⟩ := feeds_frame hold hlen
  exact ⟨u, hfeeds.readAll, hclose⟩

end Sys2Proof.Machine

/-! PROOFS. The bit packer (spec/40_bit_packer.md R111 to R118): the length of a frame, the hardware form, and the
commands. -/

namespace Sys2Proof.Machine

/-! ### Full pieces come first -/

theorem length_flatten_of_full {α : Type} {d : Nat} {full : List (List α)} (hfull : ∀ b ∈ full, b.length = d) :
    full.flatten.length = d * full.length := by
  rw [List.length_flatten, List.sum_eq_card_nsmul _ d (by simpa using hfull), List.length_map, smul_eq_mul,
    Nat.mul_comm]

/-- Full pieces in front are cut off as they are. -/
theorem cut_flatten_append {α : Type} {d : Nat} (hd : 0 < d) {full : List (List α)} (hfull : ∀ b ∈ full, b.length = d)
    (rest : List α) : cut d (full.flatten ++ rest) = full ++ cut d rest := by
  induction full with
  | nil => rfl
  | cons b full ih =>
    obtain ⟨rfl, hrest⟩ := List.forall_mem_cons.1 hfull
    have hne : b ++ (full.flatten ++ rest) ≠ [] := List.append_ne_nil_of_left_ne_nil (List.ne_nil_of_length_pos hd) _
    rw [List.flatten_cons, List.append_assoc, cut_of_ne_nil hd hne, List.take_left, List.drop_left, ih hrest,
      List.cons_append]

/-- What is no longer than a piece is at most one piece. -/
theorem cut_of_length_le {α : Type} {d : Nat} (hd : 0 < d) {l : List α} (hl : l.length ≤ d) :
    cut d l = if l = [] then [] else [l] := by
  split
  next hnil => rw [hnil, cut_nil hd]
  next hne => rw [cut_of_ne_nil hd hne, List.take_of_length_le hl, List.drop_of_length_le hl, cut_nil hd]

/-! ### The length of a frame (R115) -/

/-- Each sub-block takes a byte more than it holds of the payload (R92). -/
theorem length_flatMap_withLength (blocks : List (List Byte)) :
    (blocks.flatMap withLength).length = blocks.flatten.length + blocks.length := by
  induction blocks with
  | nil => rfl
  | cons b blocks ih =>
    rw [List.flatMap_cons, List.length_append, ih, List.flatten_cons, List.length_append, withLength, List.length_cons,
      List.length_cons]
    omega

theorem length_payload (bs : List Bool) : (payload bs).length = ceilDiv bs.length 8 := by
  rw [payload_eq_map_cut, List.length_map, length_cut]

/-- Settles O20: the sub-blocks join to the payload, and each adds its length byte. -/
theorem frameLengthIsFlen : Obligations.FrameLengthIsFlen := by
  intro pre bs
  have hblocks : ((cut 255 (payload bs)).flatMap withLength).length =
      ceilDiv bs.length 8 + ceilDiv (ceilDiv bs.length 8) 255 := by
    rw [length_flatMap_withLength, flatten_cut (by decide), length_cut, length_payload]
  rw [frame_eq_cut, List.length_append, List.length_cons, hblocks, flen, Config.subblockMax, List.length_singleton]
  omega

/-! ### The hardware form: complete bytes (R117) -/

/-- The sealed and the open sub-blocks hold these complete payload bytes. -/
structure HwPacker.HoldsBytes (h : HwPacker) (bytes : List Byte) : Prop where
  sealed_full : ∀ b ∈ h.blocks, b.length = 255
  open_le     : h.openBlock.length ≤ 254
  bytes_eq    : bytes = h.blocks.flatten ++ h.openBlock

theorem HwPacker.HoldsBytes.length_eq {h : HwPacker} {bytes : List Byte} (hh : h.HoldsBytes bytes) :
    bytes.length = 255 * h.blocks.length + h.openBlock.length := by
  rw [hh.bytes_eq, List.length_append, length_flatten_of_full hh.sealed_full]

/-- The bytes do not speak of the partial byte. -/
theorem HwPacker.HoldsBytes.withPartial {h : HwPacker} {bytes : List Byte} (hh : h.HoldsBytes bytes) (acc nacc : Nat) :
    HwPacker.HoldsBytes { h with acc, nacc } bytes :=
  ⟨hh.sealed_full, hh.open_le, hh.bytes_eq⟩

@[simp] theorem HwPacker.pushByte_acc (h : HwPacker) (b : Byte) : (h.pushByte b).acc = h.acc := by
  unfold HwPacker.pushByte
  split <;> rfl

@[simp] theorem HwPacker.pushByte_nacc (h : HwPacker) (b : Byte) : (h.pushByte b).nacc = h.nacc := by
  unfold HwPacker.pushByte
  split <;> rfl

/-- A complete byte joins the bytes held, whether or not it seals the open sub-block. -/
theorem HwPacker.HoldsBytes.pushByte {h : HwPacker} {bytes : List Byte} (hh : h.HoldsBytes bytes) (b : Byte) :
    (h.pushByte b).HoldsBytes (bytes ++ [b]) := by
  obtain ⟨hfull, hopen, rfl⟩ := hh
  unfold HwPacker.pushByte
  split
  next hseal =>
    refine ⟨fun c hc => ?_, Nat.zero_le _, by simp⟩
    obtain hc | hc := List.mem_append.1 hc
    · exact hfull c hc
    · rw [List.mem_singleton.1 hc, List.length_append, List.length_singleton]
      exact hseal
  next hroom =>
    refine ⟨hfull, ?_, List.append_assoc _ _ _⟩
    rw [Config.subblockMax] at hroom
    rw [List.length_append, List.length_singleton]
    omega

/-- Sealing what is open gives the sub-blocks of the bytes (R92). -/
theorem HwPacker.HoldsBytes.allBlocks {h : HwPacker} {bytes : List Byte} (hh : h.HoldsBytes bytes) :
    h.allBlocks = cut 255 bytes := by
  have hd : 0 < 255 := by decide
  obtain ⟨hfull, hopen, rfl⟩ := hh
  rw [cut_flatten_append hd hfull, cut_of_length_le hd (by omega), HwPacker.allBlocks]
  simp only [List.isEmpty_iff]
  split
  · rw [List.append_nil]
  · rfl

/-! ### The hardware form: bits (R112, R117) -/

/-- A bit at the lowest free position (R112). -/
theorem bitsValue_append_singleton (bs : List Bool) (b : Bool) :
    bitsValue (bs ++ [b]) = bitsValue bs + b.toNat * 2 ^ bs.length := by
  induction bs with
  | nil => simp [bitsValue]
  | cons c bs ih =>
    rw [List.cons_append, bitsValue, bitsValue, ih, List.length_cons]
    ring

/-- The payload byte of 8 or fewer bits, zeros above them (R90). -/
def packByte (bs : List Bool) : Byte := BitVec.ofNat 8 (bitsValue bs)

/-- The payload of whole bytes and a rest of the stream. -/
theorem payload_flatten_append {octets : List (List Bool)} (hoctets : ∀ o ∈ octets, o.length = 8) (rest : List Bool) :
    payload (octets.flatten ++ rest) = octets.map packByte ++ payload rest := by
  rw [payload_eq_map_cut, cut_flatten_append (by decide) hoctets, List.map_append, ← payload_eq_map_cut]
  rfl

theorem payload_of_length_le {bs : List Bool} (hbs : bs.length ≤ 8) :
    payload bs = if bs = [] then [] else [packByte bs] := by
  rw [payload_eq_map_cut, cut_of_length_le (by decide) hbs]
  split <;> rfl

/-- The packer holds these bits: the complete bytes are those of `octets`, and the partial byte is that of `rest`. -/
structure HwPacker.HoldsBits (h : HwPacker) (octets : List (List Bool)) (rest : List Bool) : Prop where
  bytes       : h.HoldsBytes (octets.map packByte)
  octets_full : ∀ o ∈ octets, o.length = 8
  acc_eq      : h.acc = bitsValue rest
  nacc_eq     : h.nacc = rest.length
  nacc_le     : h.nacc ≤ 7

/-- The packer holds the stream `bs`, cut into octets and a rest shorter than one. -/
def HwPacker.Holds (h : HwPacker) (bs : List Bool) : Prop :=
  ∃ octets rest, bs = octets.flatten ++ rest ∧ h.HoldsBits octets rest

theorem HwPacker.holds_empty : HwPacker.empty.Holds [] :=
  ⟨[], [], rfl, ⟨nofun, Nat.zero_le _, rfl⟩, nofun, rfl, rfl, Nat.zero_le _⟩

/-- Adding a bit adds it to the stream held: the eighth completes a byte, another stays in the partial byte. -/
theorem HwPacker.Holds.addBit {h : HwPacker} {bs : List Bool} (hh : h.Holds bs) (b : Bool) :
    (h.addBit b).Holds (bs ++ [b]) := by
  obtain ⟨octets, rest, rfl, hbytes, hoctets, hacc, hnacc, hle⟩ := hh
  unfold HwPacker.addBit
  split
  next hseven =>
    have hbyte : BitVec.ofNat 8 (h.acc + b.toNat * 2 ^ 7) = packByte (rest ++ [b]) := by
      rw [packByte, bitsValue_append_singleton, hacc, ← hnacc, hseven]
    refine ⟨octets ++ [rest ++ [b]], [], by simp, ?_, fun o ho => ?_, by simp [bitsValue], by simp, by simp⟩
    · rw [List.map_append, List.map_singleton, hbyte]
      exact (hbytes.withPartial 0 0).pushByte _
    · obtain ho | ho := List.mem_append.1 ho
      · exact hoctets o ho
      · rw [List.mem_singleton.1 ho, List.length_append, List.length_singleton, ← hnacc, hseven]
  next hroom =>
    refine ⟨octets, rest ++ [b], List.append_assoc _ _ _, hbytes.withPartial _ _, hoctets, ?_, ?_, ?_⟩
    · rw [bitsValue_append_singleton, hacc, hnacc]
    · rw [List.length_append, List.length_singleton, hnacc]
    · exact Nat.lt_of_le_of_ne hle hroom

/-- The packer holds exactly the bits added to it since it was opened. -/
theorem HwPacker.holds_foldl_addBit (bs : List Bool) : (bs.foldl HwPacker.addBit HwPacker.empty).Holds bs := by
  induction bs using List.reverseRecOn with
  | nil => exact HwPacker.holds_empty
  | append_singleton bs b ih =>
    rw [List.foldl_append]
    exact ih.addBit b

/-- The flush completes the last payload byte, the missing bits 0 (R90). -/
theorem HwPacker.Holds.flushByte {h : HwPacker} {bs : List Bool} (hh : h.Holds bs) :
    h.flushByte.HoldsBytes (payload bs) := by
  obtain ⟨octets, rest, rfl, hbytes, hoctets, hacc, hnacc, hle⟩ := hh
  rw [payload_flatten_append hoctets, payload_of_length_le (by omega), HwPacker.flushByte, hacc, hnacc]
  by_cases hrest : rest = []
  · rw [if_neg (by simp [hrest]), if_pos hrest, List.append_nil]
    exact hbytes
  · rw [if_pos (List.length_pos_of_ne_nil hrest), if_neg hrest]
    exact (hbytes.withPartial 0 0).pushByte _

theorem HwPacker.Holds.finish {h : HwPacker} {bs : List Bool} (hh : h.Holds bs) (pre : Byte) :
    h.finish pre = frame pre bs := by
  rw [HwPacker.finish, hh.flushByte.allBlocks, frame_eq_cut]

/-- R117's count of the bits held. -/
theorem HwPacker.Holds.length_eq {h : HwPacker} {bs : List Bool} (hh : h.Holds bs) :
    bs.length = 8 * (255 * h.blocks.length + h.openBlock.length) + h.nacc := by
  obtain ⟨octets, rest, rfl, hbytes, hoctets, -, hnacc, -⟩ := hh
  rw [List.length_append, length_flatten_of_full hoctets, ← hbytes.length_eq, List.length_map, hnacc]

/-- R117's ranges of the open sub-block and of the partial byte. -/
theorem HwPacker.Holds.ranges {h : HwPacker} {bs : List Bool} (hh : h.Holds bs) :
    h.openBlock.length ≤ 254 ∧ h.nacc ≤ 7 := by
  obtain ⟨octets, rest, -, hbits⟩ := hh
  exact ⟨hbits.bytes.open_le, hbits.nacc_le⟩

/-- Settles O22: the packer holds the bits added to it, and finishing cuts their payload into the frame's sub-blocks. -/
theorem hardwarePackerGivesTheFrame : Obligations.HardwarePackerGivesTheFrame := by
  intro pre bs
  have hh := HwPacker.holds_foldl_addBit bs
  obtain ⟨hopen, hnacc⟩ := hh.ranges
  exact ⟨hh.finish pre, _, rfl, hopen, hnacc, hh.length_eq⟩

/-! ### The commands (R111 to R116) -/

theorem length_lowBits (v w : Nat) : (lowBits v w).length = w := by
  simp [lowBits]

theorem legalWidth_iff {w : Nat} : legalWidth w = true ↔ 1 ≤ w ∧ w ≤ 12 :=
  decide_eq_true_iff

theorem pkAddBody_of_illegal {w : Nat} (v : Nat) (s : State) (hw : ¬ (1 ≤ w ∧ w ≤ 12)) :
    pkAddBody w v s = .error (badWidth w) := by
  rw [pkAddBody, Bool.eq_false_iff.2 (mt legalWidth_iff.1 hw)]
  rfl

theorem pkAddBody_of_legal {w : Nat} (v : Nat) (s : State) (hw : 1 ≤ w ∧ w ≤ 12) :
    pkAddBody w v s =
      if s.caps.byteOut < flen (s.pkBits.length + w) then .error ⟨.outputOverflow, 0, flen (s.pkBits.length + w)⟩
      else .ok { s with pkBits := s.pkBits ++ lowBits v w } := by
  rw [pkAddBody, legalWidth_iff.2 hw]
  rfl

/-- PK_FINISH's body where the frame does not fit (R116). -/
theorem pkFinishBody_of_overflow {p : Nat} {s : State}
    (hover : s.caps.byteOut < (frame (BitVec.ofNat 8 p) s.pkBits).length) :
    pkFinishBody p s = .error ⟨.outputOverflow, 0, (frame (BitVec.ofNat 8 p) s.pkBits).length⟩ :=
  if_pos hover

/-- Settles O14: the body has no check. -/
theorem pkOpenEmptiesThePacker : Obligations.PkOpenEmptiesThePacker := by
  intro s herr
  exact ⟨_, command_ok (body := fun s => .ok { s with pkBits := [] }) herr rfl, rfl, rfl, rfl⟩

/-- Settles O15: both checks pass, and the bits appended are those of `lowBits`. -/
theorem pkAddAppendsTheLowBits : Obligations.PkAddAppendsTheLowBits := by
  intro w v s herr hmin hmax hfits
  have hbody := (pkAddBody_of_legal v s ⟨hmin, hmax⟩).trans (if_neg (Nat.not_lt_of_le hfits))
  have hlen : (s.pkBits ++ lowBits v w).length = s.pkBits.length + w := by
    rw [List.length_append, length_lowBits]
  refine ⟨_, command_ok herr hbody, rfl, ?_, hlen, fun i hi => ?_⟩
  · rw [pkPending_eq, hlen]
    exact decide_eq_true (by omega)
  · rw [List.getElem?_append_right (Nat.le_add_right _ _), Nat.add_sub_cancel_left, lowBits, List.getElem?_map,
      List.getElem?_range hi, Option.map_some]

/-- Settles O16: the width is checked before the length a finish would need, and PK_FINISH checks its frame alone. -/
theorem packerFaultsInOrder : Obligations.PackerFaultsInOrder := by
  intro w v p s herr
  refine ⟨fun hw => ?_, fun hmin hmax hover => ?_, fun hover => ?_⟩
  · exact command_error herr (pkAddBody_of_illegal v s (by omega))
  · exact command_error herr ((pkAddBody_of_legal v s ⟨hmin, hmax⟩).trans (if_pos hover))
  · exact command_error herr (pkFinishBody_of_overflow hover)

end Sys2Proof.Machine

/-! PROOFS. The bit unpacker (spec/41_bit_unpacker.md R130 to R137): the next bit, reads, the cells they depend on, and
the commands. -/

namespace Sys2Proof.Machine

/-! ### The next bit, case by case (R132) -/

section
variable {rd : Nat → Byte} {u : Cursor}

theorem nextBit_of_fetchByte {u1 : Cursor} (h : fetchByte rd u = .ok u1) :
    nextBit rd u = .ok (u1.cur.getLsbD u1.boff, { u1 with boff := u1.boff + 1 }) := by
  rw [nextBit, h]

theorem nextBit_of_fetchByte_error {f : BlockFault} (h : fetchByte rd u = .error f) : nextBit rd u = .error f := by
  rw [nextBit, h]

theorem nextBlock_of_unfinished (hrem : u.rem ≠ 0) : nextBlock rd u = .ok u :=
  if_pos hrem

theorem nextBlock_of_length (hrem : u.rem = 0) (hpos : u.pos < u.len) (hlen : rd u.pos ≠ 0) :
    nextBlock rd u = .ok { u with pos := u.pos + 1, rem := (rd u.pos).toNat } := by
  rw [nextBlock, if_neg (not_not.2 hrem), if_neg (Nat.not_le.2 hpos), if_neg hlen]

theorem nextBlock_at_end (hrem : u.rem = 0) (hpos : u.len ≤ u.pos) :
    nextBlock rd u = .error ⟨.truncatedStream, u.pos, 0⟩ := by
  rw [nextBlock, if_neg (not_not.2 hrem), if_pos hpos]

theorem nextBlock_of_zero (hrem : u.rem = 0) (hpos : u.pos < u.len) (hzero : rd u.pos = 0) :
    nextBlock rd u = .error ⟨.malformedPrematureEnd, u.pos, 0⟩ := by
  rw [nextBlock, if_neg (not_not.2 hrem), if_neg (Nat.not_le.2 hpos), if_pos hzero]

theorem nextPayload_of_lt (hpos : u.pos < u.len) :
    nextPayload rd u =
      .ok { u with cur := rd u.pos, curpos := u.pos, pos := u.pos + 1, rem := u.rem - 1, boff := 0 } :=
  if_neg (Nat.not_le.2 hpos)

theorem nextPayload_at_end (hpos : u.len ≤ u.pos) : nextPayload rd u = .error ⟨.truncatedStream, u.pos, 0⟩ :=
  if_pos hpos

/-- A used-up byte: the payload byte after the block's length, when that has to be read. -/
theorem fetchByte_of_nextBlock {u1 : Cursor} (hboff : u.boff = 8) (h : nextBlock rd u = .ok u1) :
    fetchByte rd u = nextPayload rd u1 := by
  rw [fetchByte, if_neg (not_not.2 hboff), h]

theorem fetchByte_of_nextBlock_error {f : BlockFault} (hboff : u.boff = 8) (h : nextBlock rd u = .error f) :
    fetchByte rd u = .error f := by
  rw [fetchByte, if_neg (not_not.2 hboff), h]

theorem fetchByte_at_end (hboff : u.boff = 8) (hpos : u.len ≤ u.pos) :
    fetchByte rd u = .error ⟨.truncatedStream, u.pos, 0⟩ := by
  by_cases hrem : u.rem = 0
  · exact fetchByte_of_nextBlock_error hboff (nextBlock_at_end hrem hpos)
  · exact (fetchByte_of_nextBlock hboff (nextBlock_of_unfinished hrem)).trans (nextPayload_at_end hpos)

end

/-- Settles O24: the current byte's bit, the sub-block's next payload byte, or the first byte of a new sub-block. -/
theorem nextBitIsLazy : Obligations.NextBitIsLazy := by
  intro rd u
  refine ⟨fun hunread => ?_, fun hboff hrem hpos => ?_, fun hboff hrem hlen hpos => ?_, fun hboff hpos => ?_,
    fun hboff hrem hpos hzero => ?_, fun hboff hrem hpos hlen hend => ?_⟩
  · exact nextBit_of_fetchByte (fetchByte_of_unread (Nat.ne_of_lt hunread))
  · exact nextBit_of_fetchByte
      ((fetchByte_of_nextBlock hboff (nextBlock_of_unfinished hrem)).trans (nextPayload_of_lt hpos))
  · have hblock := nextBlock_of_length hrem (Nat.lt_of_succ_lt hpos) hlen
    exact nextBit_of_fetchByte ((fetchByte_of_nextBlock hboff hblock).trans (nextPayload_of_lt hpos))
  · exact nextBit_of_fetchByte_error (fetchByte_at_end hboff hpos)
  · exact nextBit_of_fetchByte_error (fetchByte_of_nextBlock_error hboff (nextBlock_of_zero hrem hpos hzero))
  · have hblock := nextBlock_of_length hrem hpos hlen
    exact nextBit_of_fetchByte_error ((fetchByte_of_nextBlock hboff hblock).trans (nextPayload_at_end hend))

/-! ### The cells a read depends on (R137) -/

/-- The two buffers agree on the cells the cursor has still to consume. -/
def Cursor.Agree (u : Cursor) (rd rd' : Nat → Byte) : Prop :=
  ∀ a, u.pos ≤ a → a < u.len → rd a = rd' a

theorem nextBlock_moves {rd : Nat → Byte} {u v : Cursor} (h : nextBlock rd u = .ok v) :
    u.pos ≤ v.pos ∧ v.len = u.len := by
  unfold nextBlock at h
  split_ifs at h <;> cases h
  · exact ⟨le_rfl, rfl⟩
  · exact ⟨Nat.le_succ _, rfl⟩

/-- A bit moves the cursor forward, under the same latched length (R132). -/
theorem nextBit_moves {rd : Nat → Byte} {u v : Cursor} {b : Bool} (h : nextBit rd u = .ok (b, v)) :
    u.pos ≤ v.pos ∧ v.len = u.len := by
  obtain ⟨u1, hfetch, -, rfl⟩ := nextBit_ok h
  obtain ⟨-, rfl⟩ | ⟨-, -, -, rfl⟩ | ⟨-, -, -, -, rfl⟩ := fetchByte_ok hfetch
  · exact ⟨le_rfl, rfl⟩
  · exact ⟨Nat.le_succ _, rfl⟩
  · exact ⟨Nat.le_add_right _ 2, rfl⟩

section
variable {rd rd' : Nat → Byte} {u v : Cursor}

theorem Cursor.Agree.move (h : u.Agree rd rd') (hmove : u.pos ≤ v.pos ∧ v.len = u.len) : v.Agree rd rd' :=
  fun a hpos hlen => h a (hmove.1.trans hpos) (hmove.2 ▸ hlen)

theorem Cursor.Agree.nextBlock (h : u.Agree rd rd') : nextBlock rd u = nextBlock rd' u := by
  by_cases hpos : u.pos < u.len
  · rw [Machine.nextBlock, Machine.nextBlock, h u.pos le_rfl hpos]
  · simp [Machine.nextBlock, Nat.le_of_not_lt hpos]

theorem Cursor.Agree.nextPayload (h : u.Agree rd rd') : nextPayload rd u = nextPayload rd' u := by
  by_cases hpos : u.pos < u.len
  · rw [Machine.nextPayload, Machine.nextPayload, h u.pos le_rfl hpos]
  · rw [nextPayload_at_end (Nat.le_of_not_lt hpos), nextPayload_at_end (Nat.le_of_not_lt hpos)]

theorem Cursor.Agree.fetchByte (h : u.Agree rd rd') : fetchByte rd u = fetchByte rd' u := by
  by_cases hboff : u.boff = 8
  · cases hblock : Machine.nextBlock rd u with
    | error f =>
      rw [fetchByte_of_nextBlock_error hboff hblock, fetchByte_of_nextBlock_error hboff (h.nextBlock ▸ hblock)]
    | ok u1 =>
      rw [fetchByte_of_nextBlock hboff hblock, fetchByte_of_nextBlock hboff (h.nextBlock ▸ hblock)]
      exact (h.move (nextBlock_moves hblock)).nextPayload
  · rw [fetchByte_of_unread hboff, fetchByte_of_unread hboff]

theorem Cursor.Agree.nextBit (h : u.Agree rd rd') : nextBit rd u = nextBit rd' u := by
  rw [Machine.nextBit, Machine.nextBit, h.fetchByte]

theorem Cursor.Agree.readValue (h : u.Agree rd rd') (w : Nat) : readValue rd w u = readValue rd' w u := by
  induction w generalizing u with
  | zero => rfl
  | succ w ih =>
    rw [Machine.readValue, Machine.readValue, ← h.nextBit]
    cases hbit : Machine.nextBit rd u with
    | error f => rfl
    | ok bv => simp only [ih (h.move (nextBit_moves hbit))]

theorem Cursor.Agree.readCode (h : u.Agree rd rd') (w : Nat) : readCode rd w u = readCode rd' w u := by
  cases w with
  | zero => rfl
  | succ w =>
    rw [Machine.readCode, Machine.readCode, ← h.nextBit]
    cases hbit : Machine.nextBit rd u with
    | error f => rfl
    | ok bv => simp only [(h.move (nextBit_moves hbit)).readValue]

theorem Cursor.Agree.closeStream (h : u.Agree rd rd') : closeStream rd u = closeStream rd' u := by
  by_cases hpos : u.pos < u.len
  · rw [Machine.closeStream, Machine.closeStream, h u.pos le_rfl hpos]
  · simp [Machine.closeStream, Nat.le_of_not_lt hpos]

end

/-- Settles O28: each bit answers alike on both buffers and moves the cursor forward, so they agree on what is left. -/
theorem readsStayBelowTheLatchedLength : Obligations.ReadsStayBelowTheLatchedLength := by
  intro rd rd' w u hcells
  have hagree : u.Agree rd rd' := hcells
  exact ⟨hagree.readCode w, hagree.closeStream⟩

/-! ### A read is successive next bits (R134) -/

section
variable {rd : Nat → Byte}

theorem readValue_lt {w x : Nat} {u v : Cursor} (h : readValue rd w u = .ok (x, v)) : x < 2 ^ w := by
  induction w generalizing u x v with
  | zero => cases h; exact Nat.one_pos
  | succ w ih =>
    rw [readValue] at h
    split at h
    · cases h
    · split at h <;> cases h
      rename_i b u1 _ y _ hrest
      have hy := ih hrest
      have hb := b.toNat_le
      rw [Nat.pow_succ]
      omega

/-- The value part of a read gives the read's value and cursor, or its fault (R134). -/
theorem readValue_eq_map_readCode (w : Nat) (u : Cursor) :
    readValue rd w u = (readCode rd w u).map fun r => (r.value, r.cursor) := by
  cases w with
  | zero => rfl
  | succ w =>
    rw [readValue, readCode]
    cases nextBit rd u with
    | error f => rfl
    | ok bv =>
      simp only
      cases readValue rd w bv.2 <;> rfl

/-- The value read fits its width. -/
theorem readCode_value_lt {w : Nat} {u : Cursor} {r : CodeRead} (h : readCode rd w u = .ok r) : r.value < 2 ^ w := by
  have hvalue := readValue_eq_map_readCode (rd := rd) w u
  rw [h] at hvalue
  exact readValue_lt hvalue

theorem readCode_of_readValue_error {w : Nat} {u : Cursor} {f : BlockFault} (h : readValue rd w u = .error f) :
    readCode rd w u = .error f := by
  rw [readValue_eq_map_readCode] at h
  cases hread : readCode rd w u with
  | error g => rw [hread] at h; cases h; rfl
  | ok r => rw [hread] at h; cases h

/-- Successive next bits along a sequence of cursors, as the list of bits that come next. -/
theorem Cursor.feeds_of_nextBits {bit : Nat → Bool} {cs : Nat → Cursor} {w : Nat}
    (hbits : ∀ i, i < w → nextBit rd (cs i) = .ok (bit i, cs (i + 1))) :
    Cursor.Feeds rd ((List.range w).map bit) (cs 0) (cs w) := by
  induction w with
  | zero => rfl
  | succ w ih =>
    rw [List.range_succ, List.map_append, Cursor.feeds_append]
    exact ⟨cs w, ih fun i hi => hbits i (Nat.lt_succ_of_lt hi), cs (w + 1), hbits w (Nat.lt_succ_self w), rfl⟩

/-- The first fault among the next bits ends a read that reaches it. -/
theorem Cursor.Feeds.readValue_error {bs : List Bool} {u v : Cursor} {f : BlockFault} {w : Nat}
    (h : Cursor.Feeds rd bs u v) (hfault : nextBit rd v = .error f) (hw : bs.length < w) :
    Machine.readValue rd w u = .error f := by
  induction bs generalizing u w with
  | nil =>
    cases h
    obtain ⟨w, rfl⟩ := Nat.exists_eq_add_one.2 hw
    rw [Machine.readValue, hfault]
  | cons b bs ih =>
    obtain ⟨u1, hbit, hrest⟩ := h
    obtain ⟨w, rfl⟩ := Nat.exists_eq_add_one.2 (Nat.zero_lt_of_lt hw)
    simp only [Machine.readValue, hbit, ih hrest (Nat.lt_of_succ_lt_succ hw)]

end

/-! ### The commands (R131, R133, R135) -/

section
variable {w : Nat} {s : State}

theorem upReadBody_of_unbound (hbound : s.upBound = false) : upReadBody w s = .error ⟨.sequenceError, 0, 0x05⟩ := by
  rw [upReadBody, hbound]
  rfl

theorem upReadBody_of_illegal (hbound : s.upBound = true) (hw : ¬ (1 ≤ w ∧ w ≤ 12)) :
    upReadBody w s = .error (badWidth w) := by
  rw [upReadBody, hbound, Bool.eq_false_iff.2 (mt legalWidth_iff.1 hw)]
  rfl

theorem upReadBody_of_read {r : CodeRead} (hbound : s.upBound = true) (hw : 1 ≤ w ∧ w ≤ 12)
    (hread : readCode (s.cell .byteIn) w s.up = .ok r) :
    upReadBody w s = .ok { s with up := r.cursor, result := BitVec.ofNat 32 r.value } := by
  rw [upReadBody, hbound, legalWidth_iff.2 hw, hread]
  rfl

theorem upReadBody_of_fault {f : BlockFault} (hbound : s.upBound = true) (hw : 1 ≤ w ∧ w ≤ 12)
    (hread : readCode (s.cell .byteIn) w s.up = .error f) : upReadBody w s = .error f := by
  rw [upReadBody, hbound, legalWidth_iff.2 hw, hread]
  rfl

theorem upCloseBody_of_unbound (hbound : s.upBound = false) : upCloseBody s = .error ⟨.sequenceError, 0, 0x06⟩ := by
  rw [upCloseBody, hbound]
  rfl

theorem upCloseBody_of_fault {f : BlockFault} (hbound : s.upBound = true)
    (hclose : closeStream (s.cell .byteIn) s.up = .error f) : upCloseBody s = .error f := by
  rw [upCloseBody, hbound, hclose]
  rfl

end

section
variable {rd : Nat → Byte} {u : Cursor}

theorem closeStream_of_payload (hrem : 0 < u.rem) :
    closeStream rd u = .error ⟨.malformedTrailingData, u.pos, u.rem⟩ :=
  if_pos hrem

theorem closeStream_at_end (hrem : u.rem = 0) (hpos : u.len ≤ u.pos) :
    closeStream rd u = .error ⟨.malformedNoTerminator, u.pos, 0⟩ := by
  rw [closeStream, if_neg (Nat.not_lt.2 hrem.le), if_pos hpos]

theorem closeStream_of_nonzero (hrem : u.rem = 0) (hpos : u.pos < u.len) (hne : rd u.pos ≠ 0) :
    closeStream rd u = .error ⟨.malformedNoTerminator, u.pos, (rd u.pos).toNat⟩ := by
  rw [closeStream, if_neg (Nat.not_lt.2 hrem.le), if_neg (Nat.not_le.2 hpos), if_pos hne]

end

/-- Settles O23: the length is the body's one check. -/
theorem upOpenBindsAtInPos : Obligations.UpOpenBindsAtInPos := by
  intro s herr
  refine ⟨fun hfits => ?_, fun hlong => ?_⟩
  · exact command_ok herr (if_neg (Nat.not_lt_of_le hfits))
  · exact command_error herr (if_pos hlong)

/-- Settles O25: the bits along the cursors come next, so the value read is their number. -/
theorem upReadReturnsTheNextBits : Obligations.UpReadReturnsTheNextBits := by
  refine ⟨fun w s r herr hbound hmin hmax hread => ?_, fun rd w bit cs hw => ⟨fun hbits => ?_, ?_⟩⟩
  · exact ⟨command_ok herr (upReadBody_of_read hbound ⟨hmin, hmax⟩ hread), readCode_value_lt hread⟩
  · obtain ⟨start, hread⟩ := (Cursor.feeds_of_nextBits hbits).readCode
    rw [List.length_map, List.length_range] at hread
    refine ⟨_, hread, fun i hi => ?_, readCode_value_lt hread, ?_, rfl⟩
    · rw [testBit_bitsValue, List.getElem?_map, List.getElem?_range hi, Option.map_some, Option.getD_some]
    · obtain ⟨w, rfl⟩ := Nat.exists_eq_add_one.2 hw
      obtain ⟨b, u1, x, hbit, -, -, hstart⟩ := readCode_ok hread
      cases hbit.symm.trans (hbits 0 hw)
      exact hstart
  · intro k f hk hbits hfault
    have hfeeds := Cursor.feeds_of_nextBits hbits
    exact readCode_of_readValue_error (hfeeds.readValue_error hfault (by simpa using hk))

/-- Settles O26: each check that fails is the first one of its body that does. -/
theorem unpackerFaultsInOrder : Obligations.UnpackerFaultsInOrder := by
  intro w s herr
  refine ⟨fun hbound => ?_, fun hbound hw => ?_, fun hbound hmin hmax f hread => ?_, fun hbound => ?_,
    fun hbound hrem => ?_, fun hbound hrem hpos => ?_, fun hbound hrem hpos hne => ?_⟩
  · exact command_error herr (upReadBody_of_unbound hbound)
  · exact command_error herr (upReadBody_of_illegal hbound (by omega))
  · exact command_error herr (upReadBody_of_fault hbound ⟨hmin, hmax⟩ hread)
  · exact command_error herr (upCloseBody_of_unbound hbound)
  · exact command_error herr (upCloseBody_of_fault hbound (closeStream_of_payload hrem))
  · exact command_error herr (upCloseBody_of_fault hbound (closeStream_at_end hrem hpos))
  · exact command_error herr (upCloseBody_of_fault hbound (closeStream_of_nonzero hrem hpos hne))

end Sys2Proof.Machine

/-! PROOFS. ENC_RUN (spec/42_lzw_encoder.md R150, R160 to R165): its checks in order, what it writes, and what a run depends
on. -/

namespace Sys2Proof.Machine

/-! ### The input indices (R150) -/

theorem firstBadIndex_of_indicesBelow {m : Nat} {xs : List Byte} (h : indicesBelow m xs) (k : Nat) :
    firstBadIndex m k xs = none := by
  induction xs generalizing k with
  | nil => rfl
  | cons x xs ih =>
    obtain ⟨hx, hrest⟩ := List.forall_mem_cons.1 h
    rw [firstBadIndex, if_neg (Nat.not_le.2 hx), ih hrest]

/-- An index that is not below `2^m`, behind indices that are, is the one reported, with its place. -/
theorem firstBadIndex_of_first {m i : Nat} {xs : List Byte} {x : Byte} (hx : xs[i]? = some x) (hbad : 2 ^ m ≤ x.toNat)
    (hbefore : indicesBelow m (xs.take i)) (k : Nat) : firstBadIndex m k xs = some (k + i, x) := by
  induction xs generalizing i k with
  | nil => cases hx
  | cons z xs ih =>
    cases i with
    | zero =>
      obtain rfl : z = x := Option.some.inj hx
      exact if_pos hbad
    | succ i =>
      rw [List.take_succ_cons] at hbefore
      obtain ⟨hz, hrest⟩ := List.forall_mem_cons.1 hbefore
      rw [firstBadIndex, if_neg (Nat.not_le.2 hz), ih hx hrest, Nat.add_right_comm, Nat.add_assoc]

/-- The input of ENC_RUN is legal when its cells are. -/
theorem indicesBelow_cells {m n : Nat} {cell : Nat → Byte} :
    indicesBelow m ((List.range n).map cell) ↔ ∀ k, k < n → (cell k).toNat < 2 ^ m := by
  simp only [indicesBelow, List.forall_mem_map, List.mem_range]

/-- The lowest bad cell is the one reported. -/
theorem firstBadIndex_encInput {m k : Nat} {s : State} (hk : k < s.encLen.toNat) (hbad : 2 ^ m ≤ (s.cell .idxIn k).toNat)
    (hbefore : ∀ j, j < k → (s.cell .idxIn j).toNat < 2 ^ m) :
    firstBadIndex m 0 (encInput s) = some (k, s.cell .idxIn k) := by
  have hcell : (encInput s)[k]? = some (s.cell .idxIn k) := by
    rw [encInput, List.getElem?_map, List.getElem?_range hk, Option.map_some]
  have htake : (encInput s).take k = (List.range k).map (s.cell .idxIn) := by
    rw [encInput, ← List.map_take, List.take_range, Nat.min_eq_left hk.le]
  rw [firstBadIndex_of_first hcell hbad (htake ▸ indicesBelow_cells.2 hbefore) 0, Nat.zero_add]

/-! ### The checks (R160) -/

section
variable {mcs : Nat} {s : State}

theorem encRunBody_of_busy (hpk : s.pkBits ≠ []) : encRunBody mcs s = .error ⟨.unitBusy, 0, s.pkBits.length⟩ :=
  if_pos (List.length_pos_of_ne_nil hpk)

variable (hpk : s.pkBits = [])
include hpk

theorem encRunBody_of_code_size (hmcs : 8 < mcs) : encRunBody mcs s = .error ⟨.configInvalidCodeSize, 0, mcs⟩ := by
  rw [encRunBody, if_neg (by simp [hpk]), if_pos hmcs]

variable (hmcs : mcs ≤ 8)
include hmcs

theorem encRunBody_of_empty (hlen : s.encLen = 0) : encRunBody mcs s = .error ⟨.configEmptyInput, 0, 0⟩ := by
  rw [encRunBody, if_neg (by simp [hpk]), if_neg (Nat.not_lt.2 hmcs), if_pos hlen]

variable (hne : s.encLen ≠ 0)
include hne

theorem encRunBody_of_length (hlen : s.caps.idxIn < s.encLen.toNat) :
    encRunBody mcs s = .error ⟨.configBadLength, 0, s.encLen.toNat⟩ := by
  rw [encRunBody, if_neg (by simp [hpk]), if_neg (Nat.not_lt.2 hmcs), if_neg hne, if_pos hlen]

variable (hlen : s.encLen.toNat ≤ s.caps.idxIn)
include hlen

theorem encRunBody_of_index {k : Nat} {x : Byte} (hbad : firstBadIndex (max mcs 2) 0 (encInput s) = some (k, x)) :
    encRunBody mcs s = .error ⟨.configBadIndex, k, x.toNat⟩ := by
  rw [encRunBody, if_neg (by simp [hpk]), if_neg (Nat.not_lt.2 hmcs), if_neg hne, if_neg (Nat.not_lt.2 hlen)]
  simp only [clampMcs, hbad]

/-- With a legal input only the room for the stream is left to check. -/
theorem encRunBody_of_legal (hbelow : ∀ k, k < s.encLen.toNat → (s.cell .idxIn k).toNat < 2 ^ max mcs 2) :
    encRunBody mcs s =
      if s.caps.byteOut < (encStream (encInput s) (max mcs 2)).length then
        .error ⟨.outputOverflow, 0, (encStream (encInput s) (max mcs 2)).length⟩
      else .ok { emitBytes (encStream (encInput s) (max mcs 2)) s with warnClamp := decide (mcs < 2) } := by
  have hgood : firstBadIndex (max mcs 2) 0 (encInput s) = none :=
    firstBadIndex_of_indicesBelow (indicesBelow_cells.2 hbelow) 0
  rw [encRunBody, if_neg (by simp [hpk]), if_neg (Nat.not_lt.2 hmcs), if_neg hne, if_neg (Nat.not_lt.2 hlen)]
  simp only [clampMcs, hgood]
  rfl

end

/-- Settles O30: every check passes, and the stream is a run of cells of BYTE_OUT from cell 0. -/
theorem encRunWritesTheStream : Obligations.EncRunWritesTheStream := by
  intro mcs s herr hpk hmcs hne hlen hbelow hfits
  have hbody := (encRunBody_of_legal hpk hmcs hne hlen hbelow).trans (if_neg (Nat.not_lt.2 hfits))
  exact ⟨_, command_ok herr hbody, cell_setBuf_writeSeq s .byteOut _, rfl⟩

/-- Settles O31: each check that fails is the first one of the body that does. -/
theorem encRunFaultsInOrder : Obligations.EncRunFaultsInOrder := by
  intro mcs s herr
  refine ⟨fun hpk => ?_, fun hpk hmcs => ?_, fun hpk hmcs hlen => ?_, fun hpk hmcs hne hlen => ?_,
    fun k hpk hmcs hlen hk hbad hbefore => ?_, fun hpk hmcs hne hlen hbelow hover => ?_⟩
  · exact command_error herr (encRunBody_of_busy hpk)
  · exact command_error herr (encRunBody_of_code_size hpk hmcs)
  · exact command_error herr (encRunBody_of_empty hpk hmcs hlen)
  · exact command_error herr (encRunBody_of_length hpk hmcs hne hlen)
  · have hne : s.encLen ≠ 0 := fun hzero => by rw [hzero] at hk; exact absurd hk (Nat.not_lt_zero k)
    exact command_error herr (encRunBody_of_index hpk hmcs hne hlen (firstBadIndex_encInput hk hbad hbefore))
  · exact command_error herr ((encRunBody_of_legal hpk hmcs hne hlen hbelow).trans (if_pos hover))

/-! ### What a run depends on (R165) -/

/-- The state a successful ENC_RUN leaves. -/
theorem encRun_ok {mcs : Nat} {s t : State} (hexec : exec (.encRun mcs) s = .next t) (herr : t.err = false) :
    t = { emitBytes (encStream (encInput s) (clampMcs mcs)) s with warnClamp := clampWarning mcs } := by
  cases executes_of_exec hexec with
  | dropped hset => rw [herr] at hset; cases hset
  | faulted _ f => rw [raiseFault_err] at herr; cases herr
  | done _ hdone => cases hdone; rfl

/-- Settles O36: what a run writes is a function of its operand and of the input cells it reads. -/
theorem encoderRunsAreIndependent : Obligations.EncoderRunsAreIndependent := by
  intro mcs s s' t t' _ _ hlen hcells hexec hexec' herr herr'
  have hinput : encInput s' = encInput s := by
    rw [encInput, encInput, ← hlen]
    exact List.map_congr_left fun k hk => (hcells k (List.mem_range.1 hk)).symm
  obtain rfl := encRun_ok hexec herr
  obtain rfl := encRun_ok hexec' herr'
  rw [hinput]
  refine ⟨rfl, rfl, fun a ha => ?_⟩
  have hin : a < (encStream (encInput s) (clampMcs mcs)).length := ha.trans_le (toNat_ofNat_le le_rfl)
  have hread := cell_setBuf_writeSeq s .byteOut (encStream (encInput s) (clampMcs mcs)) a
  have hread' := cell_setBuf_writeSeq s' .byteOut (encStream (encInput s) (clampMcs mcs)) a
  rw [List.getElem?_eq_getElem hin] at hread hread'
  exact hread.trans hread'.symm

end Sys2Proof.Machine

/-! PROOFS. The decoder follows the encoder (spec/43_lzw_decoder.md R195): reading the emitted codes back rebuilds the
dictionary one code later and puts out the encoder's input. -/

namespace Sys2Proof.Machine

/-! ### The code loop over codes that come next (R184) -/

/-- Where the bits of the codes come next, reading them all takes the code loop from `d` to `d'`, one pass per code. -/
def Dec.Decodes (cap : Nat) (codes : List (Nat × Nat)) (d d' : Dec) : Prop :=
  ∀ (rd : Nat → Byte) (u v : Cursor) (fuel : Nat), Cursor.Feeds rd (codeBits codes) u v →
    decLoop rd cap (fuel + codes.length) { d with u := u } = decLoop rd cap fuel { d' with u := v }

theorem codeBits_append (as bs : List (Nat × Nat)) : codeBits (as ++ bs) = codeBits as ++ codeBits bs :=
  List.flatMap_append

theorem Dec.Decodes.append {cap : Nat} {as bs : List (Nat × Nat)} {d1 d2 d3 : Dec} (has : Dec.Decodes cap as d1 d2)
    (hbs : Dec.Decodes cap bs d2 d3) : Dec.Decodes cap (as ++ bs) d1 d3 := by
  intro rd u v fuel h
  rw [codeBits_append, Cursor.feeds_append] at h
  obtain ⟨w, hu, hw⟩ := h
  rw [List.length_append, Nat.add_comm as.length, ← Nat.add_assoc, has rd u w _ hu, hbs rd w v fuel hw]

/-- A code that fits its width is read back whole (R112, R134). -/
theorem Cursor.Feeds.readCode_lowBits {rd : Nat → Byte} {c w : Nat} {u v : Cursor}
    (h : Cursor.Feeds rd (codeBits [(c, w)]) u v) (hfit : c < 2 ^ w) :
    ∃ start, Machine.readCode rd w u = .ok ⟨c, start, v⟩ := by
  rw [codeBits, List.flatMap_singleton] at h
  obtain ⟨start, hread⟩ := h.readCode
  rw [length_lowBits, bitsValue_lowBits, Nat.mod_eq_of_lt hfit] at hread
  exact ⟨start, hread⟩

/-- CLEAR empties the dictionary (R185). -/
theorem Dec.decodes_clear {cap : Nat} {d : Dec} (hfit : clearCode d.m < 2 ^ d.cb) :
    Dec.Decodes cap [(clearCode d.m, d.cb)] d d.clear := by
  intro rd u v fuel h
  obtain ⟨start, hread⟩ := h.readCode_lowBits hfit
  simp only [List.length_singleton, decLoop, hread, if_true]
  rfl

/-- A data code is resolved (R184 items 3 to 6). -/
theorem Dec.decodes_data {cap c : Nat} {d d' : Dec} (hfit : c < 2 ^ d.cb) (hdata : isDataCode d.m c)
    (hok : ∀ u st, Dec.dataCode cap { d with u := u } c st = .ok { d' with u := u }) :
    Dec.Decodes cap [(c, d.cb)] d d' := by
  intro rd u v fuel h
  obtain ⟨start, hread⟩ := h.readCode_lowBits hfit
  simp only [isDataCode] at hdata
  have hclear : c ≠ clearCode d.m := by simp only [clearCode]; omega
  have heoi : c ≠ eoiCode d.m := by simp only [eoiCode]; omega
  simp only [List.length_singleton, decLoop, hread, if_neg hclear, if_neg heoi, hok]

/-- EOI ends the loop where the end-of-stream check passes (R186). -/
theorem decLoop_eoi {rd : Nat → Byte} {cap fuel e : Nat} {d : Dec} {u v : Cursor} (hfit : eoiCode d.m < 2 ^ d.cb)
    (h : Cursor.Feeds rd (codeBits [(eoiCode d.m, d.cb)]) u v) (hclose : closeStream rd v = .ok e) :
    decLoop rd cap (fuel + 1) { d with u := u } = .ok ⟨d.out, e, d.m⟩ := by
  obtain ⟨start, hread⟩ := h.readCode_lowBits hfit
  have hclear : eoiCode d.m ≠ clearCode d.m := Nat.succ_ne_self _
  simp only [decLoop, hread, if_neg hclear, if_true, hclose]

/-! ### The entry to be learned next (R187, R188) -/

/-- The dictionary once the sequence of the next data code is known to begin with `y`: the previous sequence followed by
`y` is learned. The encoder has that entry already. -/
def Dec.expect (d : Dec) (y : Byte) : Dec :=
  match d.prev with
  | none => d
  | some p => d.learn (p ++ [y])

theorem Dec.expect_of_none {d : Dec} (y : Byte) (h : d.prev = none) : d.expect y = d := by
  rw [Dec.expect, h]

theorem Dec.expect_of_some {d : Dec} {p : List Byte} (y : Byte) (h : d.prev = some p) :
    d.expect y = d.learn (p ++ [y]) := by
  rw [Dec.expect, h]

/-- A new entry changes no older sequence. -/
theorem Dec.sequence_learn_of_lt {d : Dec} {c : Nat} (s : List Byte) (hc : c < d.size) :
    (d.learn s).sequence c = d.sequence c := by
  rw [Dec.sequence, Dec.learn_table, List.lookup_cons, beq_eq_false_iff_ne.2 hc.ne]
  rfl

theorem Dec.sequence_learn_self {d : Dec} (s : List Byte) (hsize : firstFree d.m ≤ d.size) :
    (d.learn s).sequence d.size = s := by
  have hlit : ¬ d.size < clearCode (d.learn s).m := by
    have hm : (d.learn s).m = d.m := rfl
    simp only [hm, firstFree, clearCode] at hsize ⊢
    omega
  rw [Dec.sequence, if_neg hlit, Dec.learn_table, List.lookup_cons_self]
  rfl

theorem Dec.sequence_literal {d : Dec} {x : Byte} (hx : x.toNat < 2 ^ d.m) : d.sequence x.toNat = [x] := by
  rw [Dec.sequence, clearCode, if_pos hx, BitVec.ofNat_toNat, BitVec.setWidth_eq]

/-- The decoder after a data code with the sequence `y :: w`. -/
def Dec.accept (d : Dec) (y : Byte) (w : List Byte) : Dec :=
  { d.expect y with
    out := d.out ++ y :: w, prev := some (y :: w), cb := grownWidth (d.expect y).size d.cb }

/-- The case rules R187 and R188 say the same: a data code stands for its sequence after the expected entry is learned. -/
theorem Dec.Inv.resolve_eq {d : Dec} (h : d.Inv) {c : Nat} {y : Byte} {w : List Byte}
    (hc : c < (d.expect y).size) (hseq : (d.expect y).sequence c = y :: w) (st : Nat) :
    d.resolve c st = .ok (y :: w, d.expect y) := by
  cases hprev : d.prev with
  | none =>
    rw [Dec.expect_of_none y hprev] at hc hseq ⊢
    simp only [Dec.resolve, if_pos hc, hprev, hseq]
  | some p =>
    rw [Dec.expect_of_some y hprev] at hc hseq ⊢
    obtain hlt | rfl := Nat.lt_or_eq_of_le (Nat.le_of_lt_succ hc)
    · rw [Dec.sequence_learn_of_lt _ hlt] at hseq
      simp only [Dec.resolve, if_pos hlt, hprev, hseq, List.take_succ_cons, List.take_zero]
    · rw [Dec.sequence_learn_self _ h.size_ok.1] at hseq
      obtain ⟨z, p, rfl⟩ := List.exists_cons_of_length_pos (h.prev_ok p hprev).1
      rw [List.cons_append] at hseq
      obtain ⟨rfl, rfl⟩ := List.cons.inj hseq
      simp only [Dec.resolve, if_neg (Nat.lt_irrefl _), hprev, if_true, List.take_succ_cons, List.take_zero,
        List.cons_append]

theorem Dec.Inv.dataCode_eq {d : Dec} (h : d.Inv) {cap c : Nat} {y : Byte} {w : List Byte}
    (hfull : d.size ≠ fullSize) (hc : c < (d.expect y).size) (hseq : (d.expect y).sequence c = y :: w)
    (hcap : (d.out ++ y :: w).length ≤ cap) (st : Nat) : d.dataCode cap c st = .ok (d.accept y w) := by
  have hroom : ¬ d.out.length + (y :: w).length > cap := by rw [← List.length_append]; omega
  have hkeep : (d.expect y).out = d.out ∧ (d.expect y).cb = d.cb := by
    unfold Dec.expect; split <;> exact ⟨rfl, rfl⟩
  rw [Dec.dataCode, if_neg hfull, h.resolve_eq hc hseq]
  simp only [if_neg hroom, Dec.widthUpdate_eq, Dec.append, Dec.accept, hkeep]

/-- The expected entry does not depend on the cursor. -/
theorem Dec.expect_move (d : Dec) (u : Cursor) (y : Byte) :
    Dec.expect { d with u := u } y = { d.expect y with u := u } := by
  obtain ⟨m, cb, size, table, prev, out, v⟩ := d
  cases prev <;> rfl

@[simp] theorem Dec.expect_m (d : Dec) (y : Byte) : (d.expect y).m = d.m := by
  unfold Dec.expect
  cases d.prev <;> rfl

@[simp] theorem Dec.accept_m (d : Dec) (y : Byte) (w : List Byte) : (d.accept y w).m = d.m := Dec.expect_m d y

/-- The code loop accepts a data code that stands for `y :: w`. -/
theorem Dec.Inv.decodes_accept {d : Dec} (h : d.Inv) {cap c : Nat} {y : Byte} {w : List Byte}
    (hfull : d.size ≠ fullSize) (hfit : c < 2 ^ d.cb) (hdata : isDataCode d.m c) (hc : c < (d.expect y).size)
    (hseq : (d.expect y).sequence c = y :: w) (hcap : (d.out ++ y :: w).length ≤ cap) :
    Dec.Decodes cap [(c, d.cb)] d (d.accept y w) := by
  refine Dec.decodes_data hfit hdata fun u st => ?_
  have haccept : Dec.accept { d with u := u } y w = { d.accept y w with u := u } := by
    simp only [Dec.accept, Dec.expect_move]
  rw [← haccept]
  refine (h.move u).dataCode_eq hfull ?_ ?_ hcap st
  · rw [Dec.expect_move]; exact hc
  · rw [Dec.expect_move]; exact hseq

/-- After a data code the decoder expects the sequence just put out, followed by the first index of the next one. -/
theorem Dec.accept_expect (d : Dec) (y x : Byte) (w : List Byte) :
    (d.accept y w).expect x = (d.accept y w).learn (y :: w ++ [x]) := rfl

/-! ### The decoder after the codes the encoder has emitted -/

/-- The decoder at the initial dictionary (R181 to R183). -/
def Dec.start (m : Nat) (u : Cursor) : Dec := ⟨m, m + 1, firstFree m, [], none, [], u⟩

/-- What the decoder `d` knows once it has read the codes `e` has emitted, if the running sequence of `e` begins with `y`:
with the entry it then expects it has every entry of `e`, at the same next code and the same width. -/
structure Enc.Tracked (cap : Nat) (e : Enc) (d : Dec) (y : Byte) : Prop where
  inv     : d.Inv
  m_eq    : d.m = e.m
  cb_eq   : d.cb = e.cb
  size_eq : (d.expect y).size = e.nf
  /-- Nothing is expected only after a CLEAR. -/
  fresh   : d.prev = none → d.size = firstFree d.m
  entries : ∀ k ∈ e.dict, k.1.1 < e.nf ∧
    (d.expect y).sequence k.2 = (d.expect y).sequence k.1.1 ++ [k.1.2]
  /-- The initial CLEAR stands before the codes of the loop (R182). -/
  codes   : ∃ codes, e.emitted = (clearCode e.m, e.m + 1) :: codes ∧
    ∀ u, Dec.Decodes cap codes (Dec.start e.m u) d

theorem Enc.tracked_start (cap : Nat) {m : Nat} (h2 : 2 ≤ m) (h8 : m ≤ 8) (u : Cursor) (y : Byte) :
    (Enc.start m).Tracked cap (Dec.start m u) y where
  inv := Dec.start_inv h2 h8 u
  m_eq := rfl
  cb_eq := rfl
  size_eq := rfl
  fresh := fun _ => rfl
  entries := fun k hk => by cases hk
  codes := ⟨[], rfl, fun _ _ _ _ _ h => by cases h; rfl⟩

/-- The decoder is one entry behind, but for a fresh dictionary, so it is not full when a data code comes (R191). -/
theorem Enc.Tracked.size_ne_full {cap : Nat} {e : Enc} {d : Dec} {y : Byte} (ht : e.Tracked cap d y) (h : e.Inv) :
    d.size ≠ fullSize := by
  have hsize := ht.size_eq
  have hnf : e.nf ≤ 2 ^ 12 := h.nf_ok.2.trans (Nat.pow_le_pow_right (by decide) h.cb_ok.2)
  simp only [fullSize, Config.maxBits]
  cases hprev : d.prev with
  | none =>
    have hpow : 2 ^ d.m ≤ 2 ^ 8 := Nat.pow_le_pow_right (by decide) ht.inv.m_ok.2
    rw [ht.fresh hprev, firstFree]
    omega
  | some p =>
    rw [Dec.expect_of_some y hprev, Dec.learn_size] at hsize
    omega

/-- Assigning a code below the 4096th: the width follows as the decoder's does (R156, R190). -/
theorem Enc.assign_grownWidth {e : Enc} (h : e.Inv) (b : Nat) (dict : List ((Nat × Byte) × Nat)) (hnf : e.nf ≠ 4096) :
    e.assign b dict = { e with
      emitted := e.emitted ++ [(b, e.cb)], dict := dict, nf := e.nf + 1, cb := grownWidth e.nf e.cb } := by
  unfold grownWidth
  by_cases htop : e.nf = 2 ^ e.cb
  · have hcb : e.cb < 12 := lt_of_le_of_ne h.cb_ok.2 fun hcb => hnf (by rw [htop, hcb]; rfl)
    rw [Enc.assign_grows b dict htop hcb, if_pos ⟨htop, hcb⟩]
  · rw [Enc.assign_below b dict htop, if_neg fun hgrow => htop hgrow.1]

/-- The next free code gets to 4096 only at the width of 12 (R156). -/
theorem Enc.Inv.cb_of_full {e : Enc} (h : e.Inv) (hnf : e.nf = 4096) : e.cb = 12 := by
  refine le_antisymm h.cb_ok.2 (Nat.le_of_not_lt fun hlt => ?_)
  have hpow : 2 ^ e.cb < 2 ^ 12 := Nat.pow_lt_pow_right (by decide) hlt
  have hle := h.nf_ok.2
  omega

/-- Assigning the 4096th code clears the dictionary (R157). -/
theorem Enc.assign_full {e : Enc} (h : e.Inv) (b : Nat) (dict : List ((Nat × Byte) × Nat)) (hnf : e.nf = 4096) :
    e.assign b dict = { e with
      emitted := e.emitted ++ [(b, e.cb)] ++ [(clearCode e.m, 12)], dict := [], nf := firstFree e.m, cb := e.m + 1 } := by
  have hcb := h.cb_of_full hnf
  rw [Enc.assign_clears b dict (by rw [hnf, hcb]; rfl) hcb, hcb, List.append_assoc]
  rfl

section
variable {cap b : Nat} {e : Enc} {d : Dec} {y : Byte} {w : List Byte}

/-- Codes read after those already tracked. -/
theorem Enc.Tracked.codes_append {e' : Enc} {d' : Dec} {codes : List (Nat × Nat)} (ht : e.Tracked cap d y)
    (hm : e'.m = e.m) (hemitted : e'.emitted = e.emitted ++ codes) (hcodes : Dec.Decodes cap codes d d') :
    ∃ codes, e'.emitted = (clearCode e'.m, e'.m + 1) :: codes ∧ ∀ u, Dec.Decodes cap codes (Dec.start e'.m u) d' := by
  obtain ⟨first, hfirst, hdec⟩ := ht.codes
  rw [hm]
  exact ⟨first ++ codes, by rw [hemitted, hfirst, List.cons_append], fun u => (hdec u).append hcodes⟩

variable (ht : e.Tracked cap d y) (h : e.Inv) (hbuf : e.buf = some b) (hseq : (d.expect y).sequence b = y :: w)
include ht h hbuf hseq

/-- The decoder accepts the running code and keeps its ranges. -/
theorem Enc.Tracked.accepts (hcap : (d.out ++ y :: w).length ≤ cap) :
    Dec.Decodes cap [(b, e.cb)] d (d.accept y w) ∧ (d.accept y w).Inv := by
  obtain ⟨hdata, hb⟩ := h.buf_ok b hbuf
  have hfull := ht.size_ne_full h
  have hsize : b < (d.expect y).size := by rw [ht.size_eq]; exact hb
  rw [← ht.m_eq] at hdata
  rw [← ht.cb_eq]
  refine ⟨ht.inv.decodes_accept hfull ?_ hdata hsize hseq hcap, ?_⟩
  · rw [ht.cb_eq]; exact hb.trans_le h.nf_ok.2
  · simp only [isDataCode] at hdata
    exact (ht.inv.dataCode (by omega) (by omega) (ht.inv.dataCode_eq hfull hsize hseq hcap 0)).1

/-- After the running code the decoder expects the entry of a miss on `x`, and has the older ones (R155, R187). -/
theorem Enc.Tracked.entries_accept (x : Byte) {dict : List ((Nat × Byte) × Nat)}
    (hdict : ∀ k ∈ dict, k = ((b, x), e.nf) ∨ k ∈ e.dict) : ∀ k ∈ dict, k.1.1 < e.nf + 1 ∧
      ((d.accept y w).expect x).sequence k.2 = ((d.accept y w).expect x).sequence k.1.1 ++ [k.1.2] := by
  have hb := (h.buf_ok b hbuf).2
  have hsize : (d.accept y w).size = e.nf := ht.size_eq
  have hfree : firstFree (d.accept y w).m ≤ (d.accept y w).size := by
    rw [hsize, Dec.accept_m, ht.m_eq]; exact h.nf_ok.1
  have hold : ∀ c, c < e.nf → ((d.accept y w).expect x).sequence c = (d.expect y).sequence c := fun c hc => by
    rw [Dec.accept_expect, Dec.sequence_learn_of_lt _ (hsize ▸ hc)]; rfl
  have hnew : ((d.accept y w).expect x).sequence e.nf = y :: w ++ [x] := by
    rw [Dec.accept_expect, ← hsize, Dec.sequence_learn_self _ hfree]
  intro k hk
  obtain rfl | hk := hdict k hk
  · exact ⟨hb.trans (Nat.lt_succ_self _), by rw [hnew, hold b hb, hseq]⟩
  · obtain ⟨hlt, hk2⟩ := ht.entries k hk
    exact ⟨hlt.trans (Nat.lt_succ_self _), by rw [hold _ (h.dict_ok k hk).2, hold _ hlt, hk2]⟩

/-- When the encoder assigns a code, the decoder reads the running code, puts out the running sequence, and goes on
tracking, whichever index `x` begins the next sequence. -/
theorem Enc.Tracked.assign (hcap : (d.out ++ y :: w).length ≤ cap) (x : Byte) {dict : List ((Nat × Byte) × Nat)}
    (hdict : ∀ k ∈ dict, k = ((b, x), e.nf) ∨ k ∈ e.dict) :
    ∃ d', d'.out = d.out ++ y :: w ∧ (e.assign b dict).Tracked cap d' x := by
  obtain ⟨hdec, hinv⟩ := ht.accepts h hbuf hseq hcap
  have hm : (d.accept y w).m = e.m := (Dec.accept_m d y w).trans ht.m_eq
  have hcb : (d.accept y w).cb = grownWidth e.nf e.cb := by rw [← ht.size_eq, ← ht.cb_eq]; rfl
  by_cases hnf : e.nf = 4096
  · have hcb12 : (d.accept y w).cb = 12 := by rw [hcb, hnf, h.cb_of_full hnf]; rfl
    have hfit : clearCode (d.accept y w).m < 2 ^ (d.accept y w).cb := by
      rw [hm, hcb12]; exact Nat.pow_lt_pow_right (by decide) (h.m_ok.2.trans_lt (by decide))
    have hclear := Dec.decodes_clear (cap := cap) hfit
    rw [hm, hcb12] at hclear
    refine ⟨(d.accept y w).clear, rfl, ?_⟩
    rw [Enc.assign_full h b dict hnf]
    exact {
      inv := hinv.clear
      m_eq := hm
      cb_eq := congrArg (· + 1) hm
      size_eq := congrArg firstFree hm
      fresh := fun _ => rfl
      entries := fun k hk => by cases hk
      codes := ht.codes_append rfl (List.append_assoc _ _ _) (hdec.append hclear) }
  · refine ⟨d.accept y w, rfl, ?_⟩
    rw [Enc.assign_grownWidth h b dict hnf]
    exact {
      inv := hinv
      m_eq := hm
      cb_eq := hcb
      size_eq := by rw [Dec.accept_expect, Dec.learn_size]; exact congrArg (· + 1) ht.size_eq
      fresh := fun hnone => by cases hnone
      entries := ht.entries_accept h hbuf hseq x hdict
      codes := ht.codes_append rfl rfl hdec }

end

/-! ### A whole run -/

/-- The decoder tracks `e`, whose running code `b` stands for `y :: w`, and with that sequence it has the whole input so
far. -/
structure Enc.Runs (cap : Nat) (xs : List Byte) (e : Enc) (d : Dec) (b : Nat) (y : Byte) (w : List Byte) : Prop where
  tracked  : e.Tracked cap d y
  buf      : e.buf = some b
  sequence : (d.expect y).sequence b = y :: w
  out      : d.out ++ y :: w = xs

/-- The first index is the running sequence (R154). -/
theorem Enc.runs_first (cap : Nat) {m : Nat} {x : Byte} (h2 : 2 ≤ m) (h8 : m ≤ 8) (hx : x.toNat < 2 ^ m) (u : Cursor) :
    Enc.Runs cap [x] ((Enc.start m).consume x) (Dec.start m u) x.toNat x [] where
  tracked := { Enc.tracked_start cap h2 h8 u x with }
  buf := rfl
  sequence := Dec.sequence_literal (d := Dec.start m u) hx
  out := rfl

/-- A hit makes the running sequence longer; a miss makes the decoder put it out (R154, R155). -/
theorem Enc.Runs.consume {cap b : Nat} {xs w : List Byte} {e : Enc} {d : Dec} {x y : Byte} (hr : e.Runs cap xs d b y w)
    (h : e.Inv) (hx : x.toNat < 2 ^ e.m) (hcap : xs.length ≤ cap) :
    ∃ d' b' y' w', (e.consume x).Runs cap (xs ++ [x]) d' b' y' w' := by
  obtain ⟨ht, hbuf, hseq, rfl⟩ := hr
  cases hlookup : e.dict.lookup (b, x) with
  | some c =>
    obtain ⟨l₁, l₂, hsplit, -⟩ := List.lookup_eq_some_iff.1 hlookup
    have hmem : ((b, x), c) ∈ e.dict := by simp [hsplit]
    rw [Enc.consume_hit hbuf hlookup]
    refine ⟨d, c, y, w ++ [x], { ht with }, rfl, ?_, ?_⟩
    · rw [(ht.entries _ hmem).2, hseq, List.cons_append]
    · rw [List.append_assoc, List.cons_append]
  | none =>
    have hdict : ∀ k ∈ ((b, x), e.nf) :: e.dict, k = ((b, x), e.nf) ∨ k ∈ e.dict := fun k => List.mem_cons.1
    obtain ⟨d', hout, ht'⟩ := ht.assign h hbuf hseq hcap x hdict
    rw [Enc.consume_miss hbuf hlookup, Enc.miss_eq, ← hout]
    refine ⟨d', x.toNat, x, [], { ht' with }, rfl, Dec.sequence_literal ?_, rfl⟩
    rw [Dec.expect_m, ht'.m_eq, Enc.assign_m]
    exact hx

/-- The final flush makes the decoder put out the last running sequence (R158). -/
theorem Enc.Runs.flush {cap b : Nat} {xs w : List Byte} {e : Enc} {d : Dec} {y : Byte} (hr : e.Runs cap xs d b y w)
    (h : e.Inv) (hcap : xs.length ≤ cap) : ∃ d', d'.out = xs ∧ e.flush.Tracked cap d' y := by
  obtain ⟨ht, hbuf, hseq, rfl⟩ := hr
  rw [Enc.flush_eq hbuf]
  exact ht.assign h hbuf hseq hcap y fun k hk => .inr hk

theorem Enc.runs_foldl {cap m : Nat} {xs : List Byte} (h2 : 2 ≤ m) (h8 : m ≤ 8) (hne : xs ≠ [])
    (hxs : indicesBelow m xs) (hcap : xs.length ≤ cap) :
    ∃ d b y w, (xs.foldl Enc.consume (Enc.start m)).Runs cap xs d b y w := by
  induction xs using List.reverseRecOn with
  | nil => exact absurd rfl hne
  | append_singleton xs x ih =>
    obtain ⟨hinit, hlast⟩ := List.forall_mem_append.1 hxs
    have hx := hlast x List.mem_cons_self
    rw [List.foldl_append]
    by_cases hempty : xs = []
    · subst hempty
      exact ⟨_, _, _, _, Enc.runs_first cap h2 h8 hx (Cursor.openAt 0 0)⟩
    · have hshort : xs.length ≤ cap := by rw [List.length_append] at hcap; omega
      obtain ⟨d, b, y, w, hr⟩ := ih hempty hinit hshort
      refine hr.consume ((Enc.start_inv h2 h8).foldl_consume hinit) ?_ hshort
      rw [Enc.foldl_consume_m]
      exact hx

/-- A whole run of the encoder: the decoder accepts every code after the initial CLEAR and before EOI, and has then put
out the input (R195). -/
theorem encCodes_decodes {cap m : Nat} {xs : List Byte} (h2 : 2 ≤ m) (h8 : m ≤ 8) (hne : xs ≠ [])
    (hxs : indicesBelow m xs) (hcap : xs.length ≤ cap) :
    ∃ codes d, encCodes xs m = (clearCode m, m + 1) :: codes ++ [(eoiCode m, d.cb)] ∧ d.Inv ∧ d.m = m ∧ d.out = xs ∧
      ∀ u, Dec.Decodes cap codes (Dec.start m u) d := by
  obtain ⟨d, b, y, w, hr⟩ := Enc.runs_foldl h2 h8 hne hxs hcap
  obtain ⟨d', hout, ht⟩ := hr.flush ((Enc.start_inv h2 h8).foldl_consume hxs) hcap
  obtain ⟨codes, hemitted, hcodes⟩ := ht.codes
  have hm : (xs.foldl Enc.consume (Enc.start m)).flush.m = m := by rw [Enc.flush_m, Enc.foldl_consume_m]; rfl
  rw [hm] at hemitted hcodes
  refine ⟨codes, d', ?_, ht.inv, ht.m_eq.trans hm, hout, hcodes⟩
  rw [encCodes_eq, hemitted, ht.cb_eq]
  rfl

/-! ### The decoded stream (R194, R195) -/

/-- Codes of at least one bit are no more than their bits. -/
theorem length_le_length_codeBits {codes : List (Nat × Nat)} (h : ∀ cw ∈ codes, 1 ≤ cw.2) :
    codes.length ≤ (codeBits codes).length := by
  induction codes with
  | nil => exact le_rfl
  | cons cw codes ih =>
    obtain ⟨hcw, hrest⟩ := List.forall_mem_cons.1 h
    have hle := ih hrest
    rw [codeBits, List.flatMap_cons, List.length_append, length_lowBits, List.length_cons]
    rw [codeBits] at hle
    omega

/-- The loop has a pass for every code of a stream that stands in the cells `[p, n)` (R196). -/
theorem length_encCodes_lt_decFuel {m p n : Nat} {xs : List Byte} (h2 : 2 ≤ m) (h8 : m ≤ 8) (hxs : indicesBelow m xs)
    (hlen : p + (encStream xs m).length ≤ n) : (encCodes xs m).length < decFuel p n := by
  have hcodes := length_le_length_codeBits fun cw hcw => (Nat.le_add_left 1 m).trans (encCodes_fit h2 h8 hxs cw hcw).2.1
  rw [encStream, frameLengthIsFlen, flen, ceilDiv] at hlen
  rw [decFuel]
  omega

theorem encStream_length_pos (xs : List Byte) (m : Nat) : 0 < (encStream xs m).length :=
  Nat.succ_pos _

/-- The stream begins with the code size (R91, R159). -/
theorem holdsAt_encStream {rd : Nat → Byte} {p m : Nat} {xs : List Byte} (hold : holdsAt rd p (encStream xs m)) :
    rd p = BitVec.ofNat 8 m := by
  rw [encStream, frame, List.cons_append] at hold
  exact (holdsAt_cons.1 hold).1

/-- EOI fits every width the loop reads at. -/
theorem eoiCode_lt_two_pow {m cb : Nat} (h2 : 2 ≤ m) (hcb : m + 1 ≤ cb) : eoiCode m < 2 ^ cb :=
  (Nat.lt_succ_self _).trans ((firstFree_lt_two_pow h2).trans_le (Nat.pow_le_pow_right (by decide) hcb))

/-- A legal code size and an initial CLEAR start the loop (R181, R182). -/
theorem decStream_eq_decLoop {rd : Nat → Byte} {m p n : Nat} {u : Cursor} (hp : p < n) (hsize : (rd p).toNat = m)
    (h2 : 2 ≤ m) (h8 : m ≤ 8) (hclear : Cursor.Feeds rd (codeBits [(clearCode m, m + 1)]) (Cursor.openAt (p + 1) n) u)
    (cap : Nat) : decStream rd cap p n = decLoop rd cap (decFuel p n) (Dec.start m u) := by
  have hlegal : ¬ (m < Config.mcsMin ∨ m > Config.mcsMax) := by simp only [Config.mcsMin, Config.mcsMax]; omega
  obtain ⟨start, hread⟩ := hclear.readCode_lowBits (Nat.pow_lt_pow_right (by decide) (Nat.lt_succ_self m))
  simp only [decStream, hsize, if_neg (Nat.not_le.2 hp), if_neg hlegal, hread, ne_eq, not_true_eq_false, if_false]
  rfl

/-- R195: `dec` of a finished stream is the input, its code size, and the place just past the terminator. -/
theorem decStream_encStream {rd : Nat → Byte} {cap m p n : Nat} {xs : List Byte} (h2 : 2 ≤ m) (h8 : m ≤ 8)
    (hne : xs ≠ []) (hxs : indicesBelow m xs) (hcap : xs.length ≤ cap) (hlen : p + (encStream xs m).length ≤ n)
    (hold : holdsAt rd p (encStream xs m)) :
    decStream rd cap p n = .ok ⟨xs, p + (encStream xs m).length, m⟩ := by
  obtain ⟨codes, d, hcodes, hinv, rfl, rfl, hdec⟩ := encCodes_decodes h2 h8 hne hxs hcap
  obtain ⟨u, hfeeds, hclose⟩ := feeds_frame hold hlen
  rw [hcodes, List.cons_append, ← List.singleton_append, codeBits_append, codeBits_append] at hfeeds
  obtain ⟨u1, hclear, hrest⟩ := Cursor.feeds_append.1 hfeeds
  obtain ⟨u2, hdata, heoi⟩ := Cursor.feeds_append.1 hrest
  have hfuel := length_encCodes_lt_decFuel h2 h8 hxs hlen
  obtain ⟨fuel, hfuel⟩ : ∃ fuel, decFuel p n = fuel + 1 + codes.length := by
    rw [hcodes, List.length_append, List.length_cons] at hfuel
    exact ⟨decFuel p n - (1 + codes.length), by omega⟩
  have hp : p < n := (Nat.lt_add_of_pos_right (encStream_length_pos _ _)).trans_le hlen
  have hsize : (rd p).toNat = d.m := by
    rw [holdsAt_encStream hold, BitVec.toNat_ofNat, Nat.mod_eq_of_lt (by omega)]
  have heoifit := eoiCode_lt_two_pow h2 hinv.cb_ok.1
  rw [decStream_eq_decLoop hp hsize h2 h8 hclear, hfuel]
  exact (hdec u1 rd u1 u2 (fuel + 1) hdata).trans (decLoop_eoi heoifit heoi hclose)

/-- DEC_RUN's body on an accepted stream (R180). -/
theorem decRunBody_of_decoded {s : State} {r : Decoded} (hbound : s.upBound = false)
    (hlen : s.inLen.toNat ≤ s.caps.byteIn)
    (hdec : decStream (s.cell .byteIn) s.caps.idxOut s.inPos.toNat s.inLen.toNat = .ok r) :
    decRunBody s = .ok { s with
      idxOut := Memory.writeSeq s.idxOut 0 r.out, idxOutLen := BitVec.ofNat 32 r.out.length
      result := BitVec.ofNat 32 r.out.length, decMcs := BitVec.ofNat 8 r.m, inPos := BitVec.ofNat 32 r.stop } := by
  simp only [decRunBody, hbound, if_neg (Nat.not_lt.2 hlen), hdec]
  rfl

/-- Settles O44: the decoder tracks the encoder over the whole input, and the loop ends at the encoder's EOI. -/
theorem decRunInvertsEncRun : Obligations.DecRunInvertsEncRun := by
  intro s m xs herr hbound hin h2 h8 hne hxs hcap hlen hold
  have hdec := decStream_encStream h2 h8 hne hxs hcap hlen hold
  exact ⟨_, command_ok herr (decRunBody_of_decoded hbound hin hdec), cell_setBuf_writeSeq s .idxOut xs, rfl⟩

end Sys2Proof.Machine

/-! PROOFS. The decoder (spec/43_lzw_decoder.md R180 to R196): DEC_RUN's checks, the header, a pass of the code loop, a
data code, and the end of the loop. -/

namespace Sys2Proof.Machine

/-! ### A data code (R184, R187 to R192) -/

section
variable {d d1 : Dec} {c st cap : Nat} {p s : List Byte} {f : BlockFault}

/-- The sequence of a literal or of a stored code (R45). -/
theorem Dec.sequence_eq_of_stored
    (h : (c < 2 ^ d.m ∧ s = [BitVec.ofNat 8 c]) ∨ (2 ^ d.m < c ∧ d.table.lookup c = some s)) : d.sequence c = s := by
  obtain ⟨hlit, rfl⟩ | ⟨hlearned, hlookup⟩ := h
  · exact if_pos hlit
  · rw [Dec.sequence, clearCode, if_neg hlearned.not_gt, hlookup, Option.getD_some]

theorem Dec.resolve_stored_first (hc : c < d.size) (hprev : d.prev = none) :
    d.resolve c st = .ok (d.sequence c, d) := by
  rw [Dec.resolve, if_pos hc, hprev]

theorem Dec.resolve_stored (hc : c < d.size) (hprev : d.prev = some p) :
    d.resolve c st = .ok (d.sequence c, d.learn (p ++ (d.sequence c).take 1)) := by
  rw [Dec.resolve, if_pos hc, hprev]

/-- Whatever a code below the size learns, it stands for its own sequence. -/
theorem Dec.resolve_stored_sequence (hc : c < d.size) : ∃ d1, d.resolve c st = .ok (d.sequence c, d1) := by
  cases hprev : d.prev with
  | none => exact ⟨_, Dec.resolve_stored_first hc hprev⟩
  | some p => exact ⟨_, Dec.resolve_stored hc hprev⟩

theorem Dec.resolve_next (hc : c = d.size) (hprev : d.prev = some p) :
    d.resolve c st = .ok (p ++ p.take 1, d.learn (p ++ p.take 1)) := by
  rw [Dec.resolve, if_neg hc.not_lt, hprev]
  exact if_pos hc

theorem Dec.resolve_desync (h : d.size < c ∨ (c = d.size ∧ d.prev = none)) :
    d.resolve c st = .error ⟨.dictionaryDesync, st, c⟩ := by
  obtain habove | ⟨hc, hprev⟩ := h
  · rw [Dec.resolve, if_neg habove.not_gt]
    cases d.prev with
    | none => rfl
    | some p => exact if_neg habove.ne'
  · rw [Dec.resolve, if_neg hc.not_lt, hprev]

theorem Dec.dataCode_of_full (hfull : d.size = fullSize) : d.dataCode cap c st = .error ⟨.dictionaryDesync, st, c⟩ :=
  if_pos hfull

variable (hroom : d.size ≠ fullSize)
include hroom

theorem Dec.dataCode_of_resolve_error (hres : d.resolve c st = .error f) : d.dataCode cap c st = .error f := by
  rw [Dec.dataCode, if_neg hroom, hres]

theorem Dec.dataCode_of_overflow (hres : d.resolve c st = .ok (s, d1)) (hover : cap < d.out.length + s.length) :
    d.dataCode cap c st = .error ⟨.outputOverflow, st, d.out.length + s.length⟩ := by
  rw [Dec.dataCode, if_neg hroom, hres]
  exact if_pos hover

theorem Dec.dataCode_of_resolve (hres : d.resolve c st = .ok (s, d1)) (hfits : d.out.length + s.length ≤ cap) :
    d.dataCode cap c st = .ok { d1 with out := d1.out ++ s, prev := some s, cb := grownWidth d1.size d1.cb } := by
  rw [Dec.dataCode, if_neg hroom, hres]
  exact (if_neg hfits.not_gt).trans (congrArg Except.ok (Dec.widthUpdate_eq _))

end

/-- Settles O41: each case fixes what the code resolves to, and the room left in the output decides the rest. -/
theorem dataCodesFollowTheCaseRules : Obligations.DataCodesFollowTheCaseRules := by
  intro cap d c st _ _
  refine ⟨Dec.dataCode_of_full, fun hroom hdesync => ?_, fun seq hroom hc hprev hstored hfits => ?_,
    fun x seq p hroom hc hprev hstored hfits => ?_, fun seq hroom hseq hover => ?_,
    fun x p hroom hc hprev hfits => ?_⟩
  · exact Dec.dataCode_of_resolve_error hroom (Dec.resolve_desync hdesync)
  · have hres := Dec.resolve_stored_first (st := st) hc hprev
    rw [Dec.sequence_eq_of_stored hstored] at hres
    exact Dec.dataCode_of_resolve hroom hres hfits
  · have hres := Dec.resolve_stored (st := st) hc hprev
    rw [Dec.sequence_eq_of_stored hstored] at hres
    exact Dec.dataCode_of_resolve hroom hres hfits
  · obtain ⟨d1, hres⟩ : ∃ d1, d.resolve c st = .ok (seq, d1) := by
      obtain ⟨hc, hlit⟩ | ⟨hc, hlearned⟩ | ⟨hc, x, p, hprev, rfl⟩ := hseq
      · exact Dec.sequence_eq_of_stored (.inl hlit) ▸ Dec.resolve_stored_sequence hc
      · exact Dec.sequence_eq_of_stored (.inr hlearned) ▸ Dec.resolve_stored_sequence hc
      · exact ⟨_, Dec.resolve_next hc hprev⟩
    exact Dec.dataCode_of_overflow hroom hres hover
  · exact Dec.dataCode_of_resolve hroom (Dec.resolve_next hc hprev) hfits

/-! ### One pass of the code loop (R184 to R186) -/

section
variable {rd : Nat → Byte} {d : Dec} {cap fuel : Nat}

theorem decLoop_of_read_fault {f : BlockFault} (hread : readCode rd d.cb d.u = .error f) :
    decLoop rd cap (fuel + 1) d = .error f := by
  rw [decLoop, hread]

variable {r : CodeRead} (hread : readCode rd d.cb d.u = .ok r)
include hread

theorem decLoop_of_clear (hclear : r.value = 2 ^ d.m) :
    decLoop rd cap (fuel + 1) d = decLoop rd cap fuel (Dec.clear { d with u := r.cursor }) := by
  rw [decLoop, hread]
  exact if_pos hclear

/-- EOI: the close check decides, and no further pass is made. -/
theorem decLoop_of_eoi (heoi : r.value = 2 ^ d.m + 1) :
    decLoop rd cap (fuel + 1) d = (closeStream rd r.cursor).map fun e => ⟨d.out, e, d.m⟩ := by
  have hclear : r.value ≠ clearCode d.m := heoi.trans_ne (Nat.succ_ne_self _)
  rw [decLoop, hread]
  refine (if_neg hclear).trans ((if_pos heoi).trans ?_)
  cases closeStream rd r.cursor <;> rfl

/-- A data code: its step at the moved cursor, and then the passes left. -/
theorem decLoop_of_data (hclear : r.value ≠ 2 ^ d.m) (heoi : r.value ≠ 2 ^ d.m + 1) :
    decLoop rd cap (fuel + 1) d =
      (Dec.dataCode cap { d with u := r.cursor } r.value r.start).bind (decLoop rd cap fuel) := by
  rw [decLoop, hread]
  refine (if_neg hclear).trans ((if_neg heoi).trans ?_)
  cases Dec.dataCode cap { d with u := r.cursor } r.value r.start <;> rfl

end

/-- Settles O40: a pass is decided by the code read, CLEAR before EOI before the data codes. -/
theorem decoderHandlesClearAndEoi : Obligations.DecoderHandlesClearAndEoi := by
  intro rd cap fuel d
  refine ⟨fun f => decLoop_of_read_fault, fun r hread => ⟨decLoop_of_clear hread, fun heoi e hclose => ?_,
    fun heoi f hclose => ?_, fun hclear heoi => ⟨fun d' hdata => ?_, fun f hdata => ?_⟩⟩⟩
  · rw [decLoop_of_eoi hread heoi, hclose]
    rfl
  · rw [decLoop_of_eoi hread heoi, hclose]
    rfl
  · rw [decLoop_of_data hread hclear heoi, hdata]
    rfl
  · rw [decLoop_of_data hread hclear heoi, hdata]
    rfl

/-! ### The header (R181, R182) -/

section
variable {rd : Nat → Byte} {cap p n m : Nat}

theorem decStream_of_empty (hp : n ≤ p) : decStream rd cap p n = .error ⟨.truncatedStream, p, 0⟩ :=
  if_pos hp

theorem decStream_of_bad_code_size (hp : p < n) (hsize : (rd p).toNat < 2 ∨ 8 < (rd p).toNat) :
    decStream rd cap p n = .error ⟨.malformedBadCodeSize, p, (rd p).toNat⟩ :=
  (if_neg hp.not_ge).trans (if_pos hsize)

variable (hp : p < n) (hm : (rd p).toNat = m) (h2 : 2 ≤ m) (h8 : m ≤ 8)
include hp hm h2 h8

/-- With a legal code size the first code decides. -/
theorem decStream_of_code_size :
    decStream rd cap p n =
      (readCode rd (m + 1) (Cursor.openAt (p + 1) n)).bind fun r =>
        if r.value ≠ 2 ^ m then .error ⟨.malformedNoInitialClear, r.start, r.value⟩
        else decLoop rd cap (decFuel p n) (Dec.start m r.cursor) := by
  subst hm
  have hlegal : ¬ ((rd p).toNat < 2 ∨ 8 < (rd p).toNat) := by omega
  refine (if_neg hp.not_ge).trans ((if_neg hlegal).trans ?_)
  cases readCode rd ((rd p).toNat + 1) (Cursor.openAt (p + 1) n) <;> rfl

theorem decStream_of_read_fault {f : BlockFault} (hread : readCode rd (m + 1) (Cursor.openAt (p + 1) n) = .error f) :
    decStream rd cap p n = .error f := by
  rw [decStream_of_code_size hp hm h2 h8, hread]
  rfl

variable {r : CodeRead} (hread : readCode rd (m + 1) (Cursor.openAt (p + 1) n) = .ok r)
include hread

theorem decStream_of_no_clear (hclear : r.value ≠ 2 ^ m) :
    decStream rd cap p n = .error ⟨.malformedNoInitialClear, r.start, r.value⟩ := by
  rw [decStream_of_code_size hp hm h2 h8, hread]
  exact if_pos hclear

theorem decStream_of_clear (hclear : r.value = 2 ^ m) :
    decStream rd cap p n = decLoop rd cap (decFuel p n) (Dec.start m r.cursor) := by
  rw [decStream_of_code_size hp hm h2 h8, hread]
  exact if_neg (not_not.2 hclear)

end

/-- Settles O39: the header's checks in their order, and then the code loop. -/
theorem decoderChecksTheHeader : Obligations.DecoderChecksTheHeader := by
  intro rd cap p n
  refine ⟨decStream_of_empty, decStream_of_bad_code_size, fun m hp hm h2 h8 => ⟨fun f => ?_, fun r hread => ⟨?_, ?_⟩⟩⟩
  · exact decStream_of_read_fault hp hm h2 h8
  · exact decStream_of_no_clear hp hm h2 h8 hread
  · exact decStream_of_clear hp hm h2 h8 hread

/-! ### The end of the loop (R196) -/

theorem le_grownWidth (size cb : Nat) : cb ≤ grownWidth size cb := by
  unfold grownWidth
  split
  · exact Nat.le_succ cb
  · exact le_rfl

/-- A data code reads nothing, and the width does not shrink (R190). -/
theorem Dec.dataCode_cursor_width {cap c st : Nat} {d d' : Dec} (h : d.dataCode cap c st = .ok d') :
    d'.u = d.u ∧ d.cb ≤ d'.cb := by
  obtain ⟨-, s, d1, hres, -, rfl⟩ := Dec.dataCode_ok h
  have hkeep : d1.u = d.u ∧ d1.cb = d.cb := by
    obtain ⟨-, -, -, rfl⟩ | ⟨-, -, p, -, rfl⟩ | ⟨p, -, -, rfl⟩ := Dec.resolve_ok hres <;> exact ⟨rfl, rfl⟩
  exact ⟨hkeep.1, hkeep.2.symm.le.trans (le_grownWidth _ _)⟩

/-- Each pass reads at least one bit, so with more passes than unread bits the answer for no fuel is not met. -/
theorem decLoop_add_fuel {rd : Nat → Byte} {cap fuel : Nat} {d : Dec} (extra : Nat) (hcb : 1 ≤ d.cb)
    (hboff : d.u.boff ≤ 8) (hfuel : d.u.bitsLeft < fuel) :
    decLoop rd cap (fuel + extra) d = decLoop rd cap fuel d := by
  induction fuel generalizing d with
  | zero => exact absurd hfuel (Nat.not_lt_zero _)
  | succ fuel ih =>
    rw [Nat.add_right_comm]
    cases hread : readCode rd d.cb d.u with
    | error f => rw [decLoop_of_read_fault hread, decLoop_of_read_fault hread]
    | ok r =>
      obtain ⟨hboff', hleft⟩ := readCode_bitsLeft hread hboff
      have hfuel' : r.cursor.bitsLeft < fuel := by omega
      by_cases hclear : r.value = 2 ^ d.m
      · rw [decLoop_of_clear hread hclear, decLoop_of_clear hread hclear]
        exact ih (Nat.le_add_left 1 d.m) hboff' hfuel'
      by_cases heoi : r.value = 2 ^ d.m + 1
      · rw [decLoop_of_eoi hread heoi, decLoop_of_eoi hread heoi]
      rw [decLoop_of_data hread hclear heoi, decLoop_of_data hread hclear heoi]
      cases hdata : Dec.dataCode cap { d with u := r.cursor } r.value r.start with
      | error f => rfl
      | ok d' =>
        obtain ⟨hu, hwidth⟩ := Dec.dataCode_cursor_width hdata
        exact ih (hcb.trans hwidth) (hu ▸ hboff') (hu ▸ hfuel')

/-- The stream's cells after the code-size byte hold fewer bits than `decStream` gives passes. -/
theorem readCode_openAt_bitsLeft {rd : Nat → Byte} {p n w : Nat} {r : CodeRead} (hp : p < n)
    (hread : readCode rd w (Cursor.openAt (p + 1) n) = .ok r) :
    r.cursor.boff ≤ 8 ∧ r.cursor.bitsLeft < decFuel p n := by
  obtain ⟨hboff, hleft⟩ := readCode_bitsLeft hread le_rfl
  refine ⟨hboff, ?_⟩
  simp only [Cursor.openAt, Cursor.bitsLeft, decFuel] at hleft ⊢
  omega

/-- Settles O43: every pass reads a bit, and `decFuel` is more than the bits after the code-size byte. -/
theorem decoderLoopEndsByItself : Obligations.DecoderLoopEndsByItself := by
  refine ⟨fun rd cap fuel extra d => decLoop_add_fuel extra, fun rd p n w r => readCode_openAt_bitsLeft, ?_⟩
  intro rd cap p n m extra r hp hm h2 h8 hread hclear
  obtain ⟨hboff, hleft⟩ := readCode_openAt_bitsLeft hp hread
  rw [decStream_of_clear hp hm h2 h8 hread hclear]
  exact decLoop_add_fuel extra (Nat.le_add_left 1 m) hboff hleft

/-! ### DEC_RUN (R180) -/

section
variable {s : State}

theorem decRunBody_of_bound (hbound : s.upBound = true) : decRunBody s = .error ⟨.unitBusy, 0, s.up.pos⟩ :=
  if_pos hbound

variable (hbound : s.upBound = false)
include hbound

theorem decRunBody_of_length (hlen : s.caps.byteIn < s.inLen.toNat) :
    decRunBody s = .error ⟨.configBadLength, 0, s.inLen.toNat⟩ :=
  (if_neg (Bool.eq_false_iff.1 hbound)).trans (if_pos hlen)

theorem decRunBody_of_stream_fault {f : BlockFault} (hlen : s.inLen.toNat ≤ s.caps.byteIn)
    (hdec : decStream (s.cell .byteIn) s.caps.idxOut s.inPos.toNat s.inLen.toNat = .error f) :
    decRunBody s = .error f := by
  rw [decRunBody, if_neg (Bool.eq_false_iff.1 hbound), if_neg hlen.not_gt, hdec]

end

/-- Settles O37: the indices are a run of cells of IDX_OUT from cell 0. -/
theorem decRunWritesTheIndices : Obligations.DecRunWritesTheIndices := by
  intro s d herr hbound hlen hdec
  exact ⟨_, command_ok herr (decRunBody_of_decoded hbound hlen hdec), cell_setBuf_writeSeq s .idxOut d.out, rfl⟩

/-- Settles O38: each check that fails is the first one of the body that does. -/
theorem decRunFaultsInOrder : Obligations.DecRunFaultsInOrder := by
  intro s herr
  refine ⟨fun hbound => ?_, fun hbound hlong => ?_, fun hbound hlen f hdec => ?_⟩
  · exact command_error herr (decRunBody_of_bound hbound)
  · exact command_error herr (decRunBody_of_length hbound hlong)
  · exact command_error herr (decRunBody_of_stream_fault hbound hlen hdec)

end Sys2Proof.Machine

/-! PROOFS. A CMD write that runs no command: an illegal word, and a command under a latched error
(spec/44_control.md R213, R214). -/

namespace Sys2Proof.Machine

/-! ### Dispatch -/

/-- An illegal word only raises its fault (R213). -/
theorem issue_of_illegal {c : Word} (h : ∀ i, decode c ≠ .ok i) (s : State) :
    issue c s = .next (raiseFault (illegalWord c) s) := by
  unfold issue
  split
  · exact absurd ‹_› (h _)
  · rfl

/-- Under a latched error every command but SOFT_RESET ends with nothing changed (R214). -/
theorem exec_of_latched {i : Instr} {s : State} (herr : s.err = true) (hi : ∀ low, i ≠ .softReset low) :
    exec i s = .next s := by
  cases i with
  | softReset low => exact absurd rfl (hi low)
  | pkOpen => exact command_dropped (body := fun s => .ok { s with pkBits := [] }) herr
  | _ => exact command_dropped herr

/-- Under a latched error a word of another code than SOFT_RESET's changes nothing, legal or not (R214, R270). -/
theorem issue_of_latched {c : Word} {s : State} (herr : s.err = true) (hopc : opcOf c ≠ 0x0F) :
    issue c s = .next s := by
  unfold issue
  split
  · rename_i i hdecode
    refine exec_of_latched herr fun low hi => hopc ?_
    exact opcOf_of_decode_softReset (hi ▸ hdecode)
  · rw [raiseFault_latched _ herr]

/-- The latch holds an illegal word whole: it fits ERR_VAL (R213). -/
theorem raiseFault_illegalWord (c : Word) {s : State} (herr : s.err = false) :
    raiseFault (illegalWord c) s =
      { s with err := true, errcode := some .illegalCommand, errOff := 0, errVal := c } := by
  rw [raiseFault_clear _ herr]
  simp [illegalWord, c.isLt]

/-- A fault is latched alike with BUSY set or clear (R236). -/
theorem raiseFault_setBusy (f : BlockFault) (s : State) (b : Bool) :
    raiseFault f (s.setBusy b) = (raiseFault f s).setBusy b := by
  unfold raiseFault
  rw [setBusy_err]
  split <;> rfl

/-! ### The step -/

/-- The command's end undoes BUSY's set where BUSY was clear (R24). -/
theorem endCommand_setBusy {s : State} (hbusy : s.busy = false) :
    endCommand (.next (s.setBusy true)) = .next s :=
  congrArg Host.Outcome.next (setBusy_self s hbusy)

/-- Settles O8: an illegal word only raises its fault, which the clear latch takes. -/
theorem illegalWordLatchesIllegalCommand : Obligations.IllegalWordLatchesIllegalCommand := by
  intro s c rest hissue herr hlisted
  have hillegal : ∀ i, decode c ≠ .ok i := (illegalWordsAreThoseListed c).2 hlisted
  have hbusy : (raiseFault (illegalWord c) (s.takeInput rest)).busy = false := by simpa using hissue.2
  rw [step_command hissue, issue_of_illegal hillegal, raiseFault_setBusy, endCommand_setBusy hbusy]
  exact congrArg Host.Outcome.next (raiseFault_illegalWord c herr)

/-- Settles O9: a command is dropped, and the fault of an illegal word is not latched. -/
theorem latchedErrorDropsOtherWords : Obligations.LatchedErrorDropsOtherWords := by
  intro s c rest hissue herr hopc
  have hlatched : ((s.takeInput rest).setBusy true).err = true := herr
  rw [step_command hissue, issue_of_latched hlatched hopc]
  exact endCommand_setBusy (s := s.takeInput rest) hissue.2

end Sys2Proof.Machine

/-! PROOFS. Every command ends (spec/70_reset_and_hazards.md R274), and the platform's reset input (R260 to R262). -/

namespace Sys2Proof.Machine

/-! ### The end of every command (R69, R274) -/

/-- Under any latch and whatever its body answers, a command ends: dropped, done, or with its fault latched. -/
theorem command_ends (s : State) (body : State → Except BlockFault State) : ∃ t, command s body = .next t := by
  cases herr : s.err with
  | true => exact ⟨s, command_dropped herr⟩
  | false =>
    cases hbody : body s with
    | ok t => exact ⟨t, command_ok herr hbody⟩
    | error f => exact ⟨raiseFault f s, command_error herr hbody⟩

/-- Settles O11: SOFT_RESET answers the reset registers, and every other command runs in the frame `command`. -/
theorem everyCommandEnds : Obligations.EveryCommandEnds := by
  intro i s
  cases i with
  | softReset low => exact ⟨resetRegisters s, rfl⟩
  | pkOpen => exact command_ends s fun s => .ok { s with pkBits := [] }
  | _ => exact command_ends s _

/-! ### Hardware reset (R260 to R262) -/

/-- The register map does not see the buffers, which are all that the two reset events treat differently. -/
theorem readReg_hardwareReset (s : State) (off : BitVec 8) : readReg (hardwareReset s) off = 0 :=
  readReg_resetRegisters s off

theorem step_hardwareReset {s : State} {rest : List Input} (h : s.inputs = .hardwareReset :: rest) :
    step s = .next (hardwareReset (s.takeInput rest)) :=
  step_input h

/-- Settles O46: the registers read 0 as after SOFT_RESET, and an empty buffer has no cell written. -/
theorem hardwareResetClearsEverything : Obligations.HardwareResetClearsEverything := by
  intro s rest h
  refine ⟨_, step_hardwareReset h, readReg_hardwareReset _, rfl, rfl, rfl, fun sp a => ?_, rfl, rfl⟩
  rw [buf_hardwareReset, lookup_nil]

end Sys2Proof.Machine
